-- ==== Sys2Proof/Word.lean ====
section
/-! DEFINITION. The widths of the machine's values (rules R8, R9 of 00_scope.md) and the
concatenations the spec writes `a ++ b`. Every value is unsigned. -/

namespace Sys2Proof

/-- A memory cell, a V register, a timer: 8 bits (R20, R30, R31, R40). -/
abbrev Byte := BitVec 8

/-- `PC`, `I`, a stack entry, an instruction word, a fault's info: 16 bits (R23, R36, R37, R90). -/
abbrev Word := BitVec 16

/-- The address field `NNN` of an instruction word: 12 bits (R91). -/
abbrev Addr12 := BitVec 12

/-- One of the four nibbles of an instruction word (R91). -/
abbrev Nibble := BitVec 4

/-- The number of one of V0 to VF (R20). -/
abbrev Reg := Fin 16

/-- The number of one of the keys 0x0 to 0xF (R42). -/
abbrev Key := Fin 16

/-- A framebuffer column, 0 the leftmost (R41). -/
abbrev Col := Fin 64

/-- A framebuffer row, 0 the topmost (R41). -/
abbrev Row := Fin 32

/-- The number of VF, the register that doubles as the flag (R27). -/
abbrev VF : Reg := 15

/-- `hi ++ lo` of two bytes: `hi` in the high bits (R8). -/
def wordOfBytes (hi lo : Byte) : Word := hi ++ lo

end Sys2Proof
end

