-- ==== Sys2Proof/Config.lean ====
section
/-! DEFINITION. What the spec fixes as constants (R6), the parameters it decides and names an
alternative for (R7, 92_eei_decisions.md), and the one value it leaves to the host (R121). -/

namespace Sys2Proof.Config

/-- `MEM_SIZE` (R6). -/
def memSize : Nat := 4096

/-- `PROG_BASE`, the load target and the reset `PC` (R6). -/
def progBase : Nat := 0x200

/-- `PROG_LIMIT`, the first byte after program space (R6). -/
def progLimit : Nat := 0xEA0

/-- `ROM_MAX`, the longest ROM that Load accepts: 3232 bytes (R6). -/
def romMax : Nat := progLimit - progBase

/-- `STACK_DEPTH` (R6). -/
def stackDepth : Nat := 16

/-- `GLYPH_BYTES` (R6). -/
def glyphBytes : Nat := 5

/-- `MEM_INIT`: what a byte outside the font holds at reset (R7, decision D14; log entry 3). -/
def memInit : Byte := 0x00

/-- `FONT_DATA`: glyphs 0 to 7 (R66, general knowledge G3; log entry 4). -/
def fontLow : List Byte :=
  [0xF0, 0x90, 0x90, 0x90, 0xF0] ++ [0x20, 0x60, 0x20, 0x20, 0x70] ++
  [0xF0, 0x10, 0xF0, 0x80, 0xF0] ++ [0xF0, 0x10, 0xF0, 0x10, 0xF0] ++
  [0x90, 0x90, 0xF0, 0x10, 0x10] ++ [0xF0, 0x80, 0xF0, 0x10, 0xF0] ++
  [0xF0, 0x80, 0xF0, 0x90, 0xF0] ++ [0xF0, 0x10, 0x20, 0x40, 0x40]

/-- `FONT_DATA`: glyphs 8 to F (R66). -/
def fontHigh : List Byte :=
  [0xF0, 0x90, 0xF0, 0x90, 0xF0] ++ [0xF0, 0x90, 0xF0, 0x10, 0xF0] ++
  [0xF0, 0x90, 0xF0, 0x90, 0x90] ++ [0xE0, 0x90, 0xE0, 0x90, 0xE0] ++
  [0xF0, 0x80, 0x80, 0x80, 0xF0] ++ [0xE0, 0x90, 0x90, 0x90, 0xE0] ++
  [0xF0, 0x80, 0xF0, 0x80, 0xF0] ++ [0xF0, 0x80, 0xF0, 0x80, 0x80]

/-- `FONT_DATA`: the 80 bytes of the font, glyph g at `5 * g`; `FONT_BASE` is 0x000 (R66, R67). -/
def fontData : List Byte := fontLow ++ fontHigh

/-- The order of the result write and the flag write when X = 15. -/
inductive VfOrder where
  | flagLast
  | resultLast
  deriving DecidableEq, Repr

/-- Which register a shift shifts. -/
inductive ShiftSource where
  | vx
  | vy
  deriving DecidableEq, Repr

/-- How many registers FX55 and FX65 move. -/
inductive DumpRange where
  | all16
  | upToX
  deriving DecidableEq, Repr

/-- Which key press ends a blocking-wait: any, or the key numbered by the low nibble of `VX`. -/
inductive KeywaitMatch where
  | any
  | numberedByVx
  deriving DecidableEq, Repr

/-- `VF_ORDER` (R7, R161, decision D4; log entry 5). -/
def vfOrder : VfOrder := .flagLast

/-- `SHIFT_SOURCE` (R7, R169, decision D5; log entry 6). -/
def shiftSource : ShiftSource := .vx

/-- `LOGIC_WRITES_VF` (R7, R165, decision D6; log entry 7). -/
def logicWritesVf : Bool := false

/-- `FX1E_SETS_VF` (R7, R182, decision D7; log entry 8). -/
def fx1eSetsVf : Bool := true

/-- `DUMP_RANGE` (R7, R185, R186, decision D8; log entry 9). -/
def dumpRange : DumpRange := .all16

/-- `KEYWAIT_MATCH` (R7, R129, decision D9; log entry 10). -/
def keywaitMatch : KeywaitMatch := .any

/-- `STRICT_LOW_NIBBLE` (R7, R96, decision D3; log entry 11). -/
def strictLowNibble : Bool := true

/-- `HAS_8XY0` (R7, R164, decision D2; log entry 11). -/
def has8xy0 : Bool := true

/-- The byte the host supplies as `rnd` with its n-th Cycle that draws one. FREE VALUE: no body, so
nothing can be proved of it (R121, R175, decision D17; log entry 2). -/
opaque freeRnd : Nat → Byte

end Sys2Proof.Config
end

