-- ==== Sys2Proof/Machine/State.lean ====
section
/-! DEFINITION. The state of the CHIP-8 CORE, the tuple of 10_state.md held as plain data, the host's
events and their return values (40_step_and_host_events.md), and the state after Reset (R45, R240). -/

namespace Sys2Proof.Machine

/-- Why a step stops: never. The block has no behaviour that ends it: the spec's four faults are next
states in which the register `FAULT` is set (R212, R216), so this type has no constructor and
`Outcome.fault` is answered by nothing. Safe. -/
inductive Fault where
  deriving DecidableEq, Repr

/-- Why a step has no meaning. -/
inductive Refusal where
  /-- Raised only by an arm of `exec` for an instruction that has no meaning yet; no arm raises it.
  Safe. -/
  | notModelled (mnemonic : String)
  deriving DecidableEq, Repr

/-- The names of the fault codes of R211. -/
inductive FaultCode where
  /-- DecodeError, raised by Cycle at decode -/
  | decodeError
  /-- StackError::Overflow, raised by 2NNN -/
  | stackOverflow
  /-- StackError::Underflow, raised by 00EE -/
  | stackUnderflow
  /-- MemoryFault, raised by Cycle at fetch and by DXYN, FX33, FX55, FX65 -/
  | memoryFault
  deriving DecidableEq, Repr

/-- The numbers of R211. -/
def FaultCode.number : FaultCode → Nat
  | .decodeError => 1
  | .stackOverflow => 2
  | .stackUnderflow => 3
  | .memoryFault => 4

/-- The pair (code, info) that `FAULT` holds when it is not `NONE` (R35, R211). -/
structure FaultRecord where
  code : FaultCode
  info : Word
  deriving DecidableEq, Repr

/-- Main memory (R40, R60): the bytes that differ from what their address held at reset, by strictly
rising address. What an address without an entry reads as is `initialByte` (Machine/Ops.lean). -/
abbrev Memory := List Host.Cell

/-- The framebuffer (R41): 32 rows of 64 one-bit pixels; bit x of row y is `FB[y][x]`, 1 is on. -/
abbrev Frame := Vector (BitVec 64) 32

/-- An event that the host raises (R120): each is atomic. -/
inductive Event where
  /-- `Cycle(rnd)` (R122) -/
  | cycle (rnd : Byte)
  /-- `Tick()` (R127) -/
  | tick
  /-- `SetKey(index, pressed)` (R128, R129); `index` is any natural number -/
  | setKey (index : Nat) (pressed : Bool)
  /-- `Load(bytes)` (R126) -/
  | load (bytes : List Byte)
  /-- `Snapshot()` (R130) -/
  | snapshot
  /-- `AckFrame()` (R131) -/
  | ackFrame
  /-- `Reset()` (R240) -/
  | reset
  deriving DecidableEq, Repr

/-- What a host operation returns to the host (R126, R128, R130, R215). -/
inductive Reply where
  /-- no operation with a return value has been raised since Reset -/
  | nothing
  /-- Load or SetKey succeeded -/
  | ok
  /-- `LoadError::TooLarge` -/
  | loadTooLarge
  /-- `InputError::OutOfRange` -/
  | inputOutOfRange
  /-- the pixels that Snapshot returns -/
  | frame (fb : Frame)
  deriving DecidableEq, Repr

/-- The complete state of the block (10_state.md), and after it the model's own fields `inputs`,
`reply`, `rnd` and `draws`, which hold the host's side of the interface (log entries 1 and 2). -/
structure State where
  /-- V0 to VF (R20); VF is number 15 and is the flag (R27) -/
  v : Vector Byte 16
  /-- `I` (R36) -/
  i : Word
  /-- `PC` (R23) -/
  pc : Word
  /-- `STACK[0..15]` (R37); the entries below `sp` are valid -/
  stack : Vector Word 16
  /-- `SP`, 0 to 16 (R37) -/
  sp : Fin 17
  /-- `DT` (R30) -/
  dt : Byte
  /-- `ST` (R31) -/
  st : Byte
  /-- `KEYS[0..15]` (R42) -/
  keys : Vector Bool 16
  /-- `WAIT` (R32) -/
  wait : Bool
  /-- `WAIT_REG` (R33) -/
  waitReg : Reg
  /-- `FB` (R41) -/
  fb : Frame
  /-- `DIRTY` (R34) -/
  dirty : Bool
  /-- `MEM` (R40) -/
  mem : Memory
  /-- `FAULT`; `none` is `NONE` (R35) -/
  fault : Option FaultRecord
  /-- MODEL'S OWN: the events the host is still to raise, the next one first; when none is left the
  host raises Cycle events -/
  inputs : List Event
  /-- MODEL'S OWN: what the host's latest Load, SetKey or Snapshot returned -/
  reply : Reply
  /-- MODEL'S OWN: the `rnd` byte of the Cycle event being executed; `none`: whatever the host
  supplies, a free value -/
  rnd : Option Byte
  /-- MODEL'S OWN: how many CXNN have executed; it numbers the free values `Config.freeRnd` -/
  draws : Nat
  deriving DecidableEq, Repr

/-- The state after Reset, before any Load (R45, R240). The slots of `stack` and `waitReg`, which the
spec leaves unspecified and unobservable (R33, R39), are 0 (log entry 12). -/
def State.reset : State where
  v := Vector.replicate 16 0x00
  i := 0x0000
  pc := BitVec.ofNat 16 Config.progBase
  stack := Vector.replicate 16 0x0000
  sp := 0
  dt := 0x00
  st := 0x00
  keys := Vector.replicate 16 false
  wait := false
  waitReg := 0
  fb := Vector.replicate 32 0
  dirty := false
  mem := []
  fault := none
  inputs := []
  reply := .nothing
  rnd := none
  draws := 0

end Sys2Proof.Machine
end

