-- ==== Sys2Proof/Machine/Ops.lean ====
section
/-! DEFINITION. The operations that instructions and events share: registers, memory with its bounds
check, raising a fault (the block's whole exception entry; there is no return from one, R223, R224),
the program counter, the call stack, the framebuffer (R10, R212 and the rules named at each). -/

namespace Sys2Proof.Machine

/-- What a meaning answers. -/
abbrev Result := Host.Outcome State Fault Refusal

/-! ### V registers -/

/-- `V[x]` (R20). -/
def State.reg (s : State) (x : Reg) : Byte := s.v[x.val]

/-- `V[x] <- b` (R20). -/
def State.setReg (s : State) (x : Reg) (b : Byte) : State := { s with v := s.v.set x.val b }

/-- A flag write: `V[15] <- 0x00` or `0x01`, all eight bits (R27). -/
def State.setFlag (s : State) (f : Bool) : State := s.setReg VF (if f then 0x01 else 0x00)

/-- The result write and the flag write of one instruction, the flag last under the decided
`VF_ORDER`, so that with x = 15 VF ends as the flag (R29, R161; log entry 5). -/
def State.setResultFlag (s : State) (x : Reg) (result : Byte) (f : Bool) : State :=
  match Config.vfOrder with
  | .flagLast => (s.setReg x result).setFlag f
  | .resultLast => (s.setFlag f).setReg x result

/-! ### Program counter -/

/-- `PC <- PC + 2`, a 16-bit addition (R10, R125; log entry 13). -/
def State.advance (s : State) : State := { s with pc := s.pc + 2 }

/-- A skip: `PC <- a + 4` when the condition holds, else `PC <- a + 2` (R24, R140). -/
def State.skipIf (s : State) (c : Bool) : State := { s with pc := if c then s.pc + 4 else s.pc + 2 }

/-- `PC <- target` (R24, R125). -/
def State.jumpTo (s : State) (target : Word) : State := { s with pc := target }

/-! ### Memory -/

/-- What an address that nothing has written reads as: the font in the lowest 80 bytes, `MEM_INIT`
above it (R45, R66, R240; log entries 3 and 4). -/
def initialByte (a : Nat) : Byte := Config.fontData.getD a Config.memInit

/-- `MEM[a]` (R40): a read has no side effect (R70). -/
def readByte : Memory → Nat → Byte
  | [], a => initialByte a
  | (k, b) :: m, a => if a = k then b else readByte m a

/-- Memory without an entry for `a`. -/
def eraseCell (m : Memory) (a : Nat) : Memory := m.filter (fun c => c.1 != a)

/-- Memory with an entry for `a` put in by rising address. -/
def insertCell : Memory → Nat → Byte → Memory
  | [], a, b => [(a, b)]
  | (k, c) :: m, a, b => if a < k then (a, b) :: (k, c) :: m else (k, c) :: insertCell m a b

/-- `MEM[a] <- b` (R10), in the canonical form: no entry equal to the initial byte. -/
def writeByte (m : Memory) (a : Nat) (b : Byte) : Memory :=
  if b = initialByte a then eraseCell m a else insertCell (eraseCell m a) a b

/-- The bytes of a list written at `a`, `a + 1`, ... in ascending order (R65). -/
def writeBytes : Memory → Nat → List Byte → Memory
  | m, _, [] => m
  | m, a, b :: bs => writeBytes (writeByte m a b) (a + 1) bs

/-- The `n` bytes at `a`, `a + 1`, ... in ascending order (R65). -/
def readBytes (m : Memory) (a : Nat) : Nat → List Byte
  | 0 => []
  | n + 1 => readByte m a :: readBytes m (a + 1) n

/-- The canonical form: addresses of the 4096-byte space (R60), strictly rising, and no entry equal to
what its address reads as without it. -/
abbrev Memory.wf (m : Memory) : Prop :=
  m.Pairwise (fun p q => p.1 < q.1) ∧ ∀ c ∈ m, c.1 < Config.memSize ∧ c.2 ≠ initialByte c.1

/-! ### Faults -/

/-- `raise <code>(info)`: `FAULT <- (code, info)` and nothing else changes; `PC` keeps the address of
the faulting instruction (R10, R212). -/
def State.raise (s : State) (code : FaultCode) (info : Word) : State :=
  { s with fault := some ⟨code, info⟩ }

/-- `CheckRange` fails: an access of `n` bytes at `a` reaches past 0xFFF (R10, R62). No address is
reduced modulo anything first. An access of no byte never does (R202). -/
def outOfRange (a n : Nat) : Bool := decide (0 < n) && decide (Config.memSize < a + n)

/-- The info of a MemoryFault: the lowest out-of-range address, `max(a, 0x1000)` (R10, R211). -/
def memoryFaultInfo (a : Nat) : Word := BitVec.ofNat 16 (max a Config.memSize)

/-- MemoryFault for an access whose first byte is at `a` (R219). -/
def State.raiseMemory (s : State) (a : Nat) : State := s.raise .memoryFault (memoryFaultInfo a)

/-! ### The call stack -/

/-- Push a return address, unless the stack holds 16 (R37, R143). -/
def State.push (s : State) (ret : Word) : Option State :=
  if h : s.sp.val < Config.stackDepth then
    some { s with stack := s.stack.set s.sp.val ret h, sp := ⟨s.sp.val + 1, Nat.succ_lt_succ h⟩ }
  else none

/-- Pop the newest return address, unless the stack is empty (R37, R141). The slot keeps its value,
which nothing reads (R39). -/
def State.pop (s : State) : Option (Word × State) :=
  if h : 0 < s.sp.val then
    some (s.stack[s.sp.val - 1]'(Nat.sub_one_lt_of_le h (Nat.le_of_lt_succ s.sp.isLt)),
      { s with sp := ⟨s.sp.val - 1, Nat.lt_of_le_of_lt (Nat.sub_le _ _) s.sp.isLt⟩ })
  else none

/-! ### Fetch -/

/-- `MemRead(PC, 2)`: `MEM[PC] ++ MEM[PC+1]`, at any `PC`, odd or even (R64, R68), or none when
`PC > 0xFFE` (R62, R219). -/
def fetchWord (s : State) : Option Word :=
  if outOfRange s.pc.toNat 2 then none
  else some (wordOfBytes (readByte s.mem s.pc.toNat) (readByte s.mem (s.pc.toNat + 1)))

/-! ### The framebuffer -/

/-- `FB[y][x]` (R41). -/
def pixel (fb : Frame) (x : Col) (y : Row) : Bool := fb[y.val].getLsbD x.val

/-- The framebuffer with every pixel off (R201). -/
def blankFrame : Frame := Vector.replicate 32 0

/-- The pixels of one framebuffer row that a sprite byte toggles: sprite column c, which is bit
`7 - c` of the byte, falls on column `(x0 + c) mod 64` (R200, R202). -/
def spriteRow (b : Byte) (x0 : Col) : BitVec 64 :=
  (List.range 8).foldl
    (fun m c => if b.getLsbD (7 - c) then m ^^^ BitVec.twoPow 64 ((x0.val + c) % 64) else m) 0

/-- A framebuffer and whether some pixel has gone from on to off (R202). -/
structure Blit where
  fb : Frame
  collision : Bool
  deriving DecidableEq, Repr

/-- XOR one sprite row onto framebuffer row `y`; a pixel that is on and is toggled collides (R202). -/
def blitRow (acc : Blit) (b : Byte) (x0 : Col) (y : Row) : Blit :=
  { fb := acc.fb.set y.val (acc.fb[y.val] ^^^ spriteRow b x0)
    collision := acc.collision || (acc.fb[y.val] &&& spriteRow b x0) != 0 }

/-- Row `y mod 32` (R202). -/
def wrapRow (y : Nat) : Row := ⟨y % 32, Nat.mod_lt _ (by decide)⟩

/-- XOR the rows of a sprite, the first onto row `y0 mod 32`, wrapping row by row (R202). -/
def blitRows : Blit → List Byte → Col → Nat → Blit
  | acc, [], _, _ => acc
  | acc, b :: bs, x0, y0 => blitRows (blitRow acc b x0 (wrapRow y0)) bs x0 (y0 + 1)

/-! ### Outputs (R132) -/

/-- `sound_active = (ST > 0)` (R31). -/
def State.soundActive (s : State) : Bool := decide (0 < s.st.toNat)

/-- `waiting = WAIT`. -/
def State.waiting (s : State) : Bool := s.wait

/-- The number of `FAULT`'s code, 0 for `NONE` (R211). -/
def State.faultNumber (s : State) : Nat :=
  match s.fault with
  | none => 0
  | some f => f.code.number

end Sys2Proof.Machine
end

