-- ==== Sys2Proof/Machine/Flags.lean ====
section
/-! DEFINITION. The flag that each flag-defining operation leaves in VF (R28), computed from the
operands alone, which are read before any write (R29). Arithmetic is exact on natural numbers. -/

namespace Sys2Proof.Machine

/-- 8XY4: the sum exceeds 255, the carry out of bit 7 (R170). -/
def carryFlag (x y : Byte) : Bool := decide (255 < x.toNat + y.toNat)

/-- 8XY5 and, with the operands exchanged, 8XY7: `a - b` does not borrow (R171, R173). -/
def noBorrowFlag (a b : Byte) : Bool := decide (b.toNat ≤ a.toNat)

/-- 8XY6: the bit shifted out, bit 0 (R172). -/
def shiftRightFlag (x : Byte) : Bool := x.getLsbD 0

/-- 8XYE: the bit shifted out, bit 7 (R174). -/
def shiftLeftFlag (x : Byte) : Bool := x.getLsbD 7

/-- FX1E: the sum before its truncation exceeds 0x0FFF (R182; log entry 8). -/
def indexFlag (i : Word) (x : Byte) : Bool := decide (0x0FFF < i.toNat + x.toNat)

end Sys2Proof.Machine
end

