-- ==== Sys2Proof/Machine/Operands.lean ====
section
/-! DEFINITION. The operand forms of the instruction set: immediates, the one addressing mode, and the
values that instructions make of a register (R93, R180 and the rules named at each). -/

namespace Sys2Proof.Machine

/-- `zext_16(NNN)` (R93). -/
def addressOf (nnn : Addr12) : Word := nnn.setWidth 16

/-- `zext_16(V0) + zext_16(NNN)`, at most 0x10FE, not reduced (R148). -/
def offsetAddress (v0 : Byte) (nnn : Addr12) : Word := BitVec.ofNat 16 (v0.toNat + nnn.toNat)

/-- The effective address `I + k`: a natural number, the sum not truncated (R60, R180). -/
def dataAddress (i : Word) (k : Nat) : Nat := i.toNat + k

/-- The key that EX9E and EXA1 test: the low 4 bits of `VX` (R190; log entry 14). -/
def keyOf (vx : Byte) : Key := ⟨vx.toNat % 16, Nat.mod_lt _ (by decide)⟩

/-- `5 * (VX and 0xF)` (R183). -/
def glyphAddress (vx : Byte) : Word := BitVec.ofNat 16 (Config.glyphBytes * (vx.toNat % 16))

/-- The three decimal digits, hundreds first, one to a byte (R184). -/
def bcdDigits (vx : Byte) : List Byte :=
  [BitVec.ofNat 8 (vx.toNat / 100), BitVec.ofNat 8 (vx.toNat / 10 % 10), BitVec.ofNat 8 (vx.toNat % 10)]

/-- The start column `VX mod 64` (R202). -/
def startCol (vx : Byte) : Col := ⟨vx.toNat % 64, Nat.mod_lt _ (by decide)⟩

/-- The start row `VY mod 32` (R202). -/
def startRow (vy : Byte) : Row := wrapRow vy.toNat

/-- The value a shift shifts: `VX` under the decided `SHIFT_SOURCE` (R169; log entry 6). -/
def State.shiftOperand (s : State) (x y : Reg) : Byte :=
  match Config.shiftSource with
  | .vx => s.reg x
  | .vy => s.reg y

/-- How many registers FX55 and FX65 move: all sixteen under the decided `DUMP_RANGE`, whatever X is
(R185, R186; log entry 9). -/
def dumpCount (x : Reg) : Nat :=
  match Config.dumpRange with
  | .all16 => 16
  | .upToX => x.val + 1

/-- The random byte of this Cycle: the `rnd` the host supplied with the event, or a free value when
the schedule names none (R121, R175; log entry 2). -/
def State.rndByte (s : State) : Byte := s.rnd.getD (Config.freeRnd s.draws)

end Sys2Proof.Machine
end

