-- ==== Sys2Proof/Machine/Alu.lean ====
section
/-! DEFINITION. Register load, arithmetic, logic, shift and random (42_alu.md). Every instruction here
reads its operands before it writes (R161), ends with `PC <- PC + 2` and raises nothing. -/

namespace Sys2Proof.Machine

/-- `V[X] <- b; PC <- PC + 2`, no flag. -/
def writeAndAdvance (x : Reg) (b : Byte) (s : State) : Result := .next (s.setReg x b).advance

/-- `V[X] <- result; V[15] <- flag; PC <- PC + 2` (R161). -/
def writeFlagAndAdvance (x : Reg) (result : Byte) (f : Bool) (s : State) : Result :=
  .next (s.setResultFlag x result f).advance

/-- The write of a logic instruction: VF is not written unless `LOGIC_WRITES_VF` (R165; log entry 7). -/
def writeLogicAndAdvance (x : Reg) (result : Byte) (s : State) : Result :=
  if Config.logicWritesVf then writeFlagAndAdvance x result false s else writeAndAdvance x result s

/-- 6XNN `LD VX, NN` (R162). -/
def execLdImm (x : Reg) (nn : Byte) (s : State) : Result := writeAndAdvance x nn s

/-- 7XNN `ADD VX, NN`: modulo 256, no flag (R163). -/
def execAddImm (x : Reg) (nn : Byte) (s : State) : Result :=
  writeAndAdvance x (BitVec.ofNat 8 ((s.reg x).toNat + nn.toNat)) s

/-- 8XY0 `LD VX, VY` (R164). -/
def execLdReg (x y : Reg) (s : State) : Result := writeAndAdvance x (s.reg y) s

/-- 8XY1 `OR VX, VY` (R166). -/
def execOrReg (x y : Reg) (s : State) : Result := writeLogicAndAdvance x (s.reg x ||| s.reg y) s

/-- 8XY2 `AND VX, VY` (R167). -/
def execAndReg (x y : Reg) (s : State) : Result := writeLogicAndAdvance x (s.reg x &&& s.reg y) s

/-- 8XY3 `XOR VX, VY` (R168). -/
def execXorReg (x y : Reg) (s : State) : Result := writeLogicAndAdvance x (s.reg x ^^^ s.reg y) s

/-- 8XY4 `ADD VX, VY` (R170). -/
def execAddReg (x y : Reg) (s : State) : Result :=
  writeFlagAndAdvance x (BitVec.ofNat 8 ((s.reg x).toNat + (s.reg y).toNat))
    (carryFlag (s.reg x) (s.reg y)) s

/-- `(a - b) mod 256` of unsigned bytes (R171, R173). -/
def subtractBytes (a b : Byte) : Byte := BitVec.ofInt 8 ((a.toNat : Int) - (b.toNat : Int))

/-- 8XY5 `SUB VX, VY`: `VX - VY` (R171). -/
def execSubReg (x y : Reg) (s : State) : Result :=
  writeFlagAndAdvance x (subtractBytes (s.reg x) (s.reg y)) (noBorrowFlag (s.reg x) (s.reg y)) s

/-- 8XY6 `SHR VX`: logical, by one (R172). -/
def execShr (x y : Reg) (s : State) : Result :=
  writeFlagAndAdvance x (s.shiftOperand x y >>> 1) (shiftRightFlag (s.shiftOperand x y)) s

/-- 8XY7 `SUBN VX, VY`: `VY - VX` (R173). -/
def execSubnReg (x y : Reg) (s : State) : Result :=
  writeFlagAndAdvance x (subtractBytes (s.reg y) (s.reg x)) (noBorrowFlag (s.reg y) (s.reg x)) s

/-- 8XYE `SHL VX`: by one (R174). -/
def execShl (x y : Reg) (s : State) : Result :=
  writeFlagAndAdvance x (s.shiftOperand x y <<< 1) (shiftLeftFlag (s.shiftOperand x y)) s

/-- CXNN `RND VX, NN`: `V[X] <- rnd and NN` (R175). The draw is counted, so that no two draws share a
free value. -/
def execRnd (x : Reg) (nn : Byte) (s : State) : Result :=
  writeAndAdvance x (s.rndByte &&& nn) { s with draws := s.draws + 1 }

end Sys2Proof.Machine
end

