-- ==== Sys2Proof/Machine/Display.lean ====
section
/-! DEFINITION. Display instructions: clear and sprite blit (45_display.md). -/

namespace Sys2Proof.Machine

/-- 00E0 `CLS`: `DIRTY` is set even when nothing changes (R201). -/
def execCls (s : State) : Result := .next { s with fb := blankFrame, dirty := true }.advance

/-- The blit of DXYN onto the framebuffer of `s`: `N` bytes from `I`, at `(VX mod 64, VY mod 32)`. -/
def spriteBlit (x y : Reg) (n : Nibble) (s : State) : Blit :=
  blitRows ⟨s.fb, false⟩ (readBytes s.mem (dataAddress s.i 0) n.toNat) (startCol (s.reg x))
    (startRow (s.reg y)).val

/-- DXYN `DRW VX, VY, N`: the coordinates are read before VF is written; the range is checked before
any pixel changes, and N = 0 reads nothing (R202). -/
def execDrw (x y : Reg) (n : Nibble) (s : State) : Result :=
  if outOfRange (dataAddress s.i 0) n.toNat then .next (s.raiseMemory (dataAddress s.i 0))
  else
    .next ({ s with fb := (spriteBlit x y n s).fb, dirty := true }.setFlag
      (spriteBlit x y n s).collision).advance

end Sys2Proof.Machine
end

