-- ==== Sys2Proof/Machine/Flow.lean ====
section
/-! DEFINITION. Control transfer and skips (41_flow.md). A target is not checked when the transfer
executes (R140). -/

namespace Sys2Proof.Machine

/-- 00EE `RET` (R141). -/
def execRet (s : State) : Result :=
  match s.pop with
  | some (target, t) => .next (t.jumpTo target)
  | none => .next (s.raise .stackUnderflow s.pc)

/-- 1NNN `JP NNN` (R142). -/
def execJp (nnn : Addr12) (s : State) : Result := .next (s.jumpTo (addressOf nnn))

/-- 2NNN `CALL NNN`: pushes `a + 2` (R143; conflict C1). -/
def execCall (nnn : Addr12) (s : State) : Result :=
  match s.push (s.pc + 2) with
  | some t => .next (t.jumpTo (addressOf nnn))
  | none => .next (s.raise .stackOverflow s.pc)

/-- 3XNN `SE VX, NN` (R144). -/
def execSeImm (x : Reg) (nn : Byte) (s : State) : Result := .next (s.skipIf (s.reg x == nn))

/-- 4XNN `SNE VX, NN` (R145). -/
def execSneImm (x : Reg) (nn : Byte) (s : State) : Result := .next (s.skipIf (s.reg x != nn))

/-- 5XY0 `SE VX, VY` (R146). -/
def execSeReg (x y : Reg) (s : State) : Result := .next (s.skipIf (s.reg x == s.reg y))

/-- 9XY0 `SNE VX, VY` (R147). -/
def execSneReg (x y : Reg) (s : State) : Result := .next (s.skipIf (s.reg x != s.reg y))

/-- BNNN `JP V0, NNN` (R148). -/
def execJpV0 (nnn : Addr12) (s : State) : Result :=
  .next (s.jumpTo (offsetAddress (s.reg 0) nnn))

end Sys2Proof.Machine
end

