-- ==== Sys2Proof/Machine/Index.lean ====
section
/-! DEFINITION. The index register and memory (43_index_memory.md). A memory instruction checks its
whole range before it changes anything (R213) and leaves `I` as it was (R180). -/

namespace Sys2Proof.Machine

/-- `I <- value; PC <- PC + 2`. -/
def setIndexAndAdvance (value : Word) (s : State) : Result := .next { s with i := value }.advance

/-- ANNN `LD I, NNN` (R181). -/
def execLdI (nnn : Addr12) (s : State) : Result := setIndexAndAdvance (addressOf nnn) s

/-- FX1E `ADD I, VX`: modulo 65536, not masked to 12 bits; VF is the flag when `FX1E_SETS_VF` (R182;
log entry 8). -/
def execAddI (x : Reg) (s : State) : Result :=
  setIndexAndAdvance (BitVec.ofNat 16 (s.i.toNat + (s.reg x).toNat))
    (if Config.fx1eSetsVf then s.setFlag (indexFlag s.i (s.reg x)) else s)

/-- FX29 `LD F, VX` (R183). -/
def execLdF (x : Reg) (s : State) : Result := setIndexAndAdvance (glyphAddress (s.reg x)) s

/-- `CheckRange(I, n)`, then the bytes at `I` upward, then `PC <- PC + 2` (R184, R185). -/
def storeAtIndex (bs : List Byte) (s : State) : Result :=
  if outOfRange (dataAddress s.i 0) bs.length then .next (s.raiseMemory (dataAddress s.i 0))
  else .next { s with mem := writeBytes s.mem (dataAddress s.i 0) bs }.advance

/-- FX33 `LD B, VX` (R184). -/
def execLdB (x : Reg) (s : State) : Result := storeAtIndex (bcdDigits (s.reg x)) s

/-- FX55 `LD [I], VX` (R185). -/
def execDumpRegs (x : Reg) (s : State) : Result := storeAtIndex (s.v.toList.take (dumpCount x)) s

/-- `V[i] <- MEM[a + i]` for i below `n` (R186). -/
def loadRegsFrom (m : Memory) (a : Nat) (v : Vector Byte 16) : Nat → Vector Byte 16
  | 0 => v
  | n + 1 => (loadRegsFrom m a v n).setIfInBounds n (readByte m (a + n))

/-- FX65 `LD VX, [I]` (R186). -/
def execLoadRegs (x : Reg) (s : State) : Result :=
  if outOfRange (dataAddress s.i 0) (dumpCount x) then .next (s.raiseMemory (dataAddress s.i 0))
  else .next { s with v := loadRegsFrom s.mem (dataAddress s.i 0) s.v (dumpCount x) }.advance

end Sys2Proof.Machine
end

