-- ==== Sys2Proof/Machine/Keypad.lean ====
section
/-! DEFINITION. Keypad and timer instructions (44_keypad_timers.md). None touches memory, writes VF as
a flag or raises. -/

namespace Sys2Proof.Machine

/-- `KEYS[k]` (R42). -/
def State.keyDown (s : State) (k : Key) : Bool := s.keys[k.val]

/-- EX9E `SKP VX` (R191). -/
def execSkp (x : Reg) (s : State) : Result := .next (s.skipIf (s.keyDown (keyOf (s.reg x))))

/-- EXA1 `SKNP VX` (R192). -/
def execSknp (x : Reg) (s : State) : Result := .next (s.skipIf (!s.keyDown (keyOf (s.reg x))))

/-- FX07 `LD VX, DT` (R193). -/
def execLdVxDt (x : Reg) (s : State) : Result := .next (s.setReg x s.dt).advance

/-- FX0A `LD VX, K`: enters the blocking-wait; `V[X]` is written by the SetKey that ends it (R194). -/
def execLdVxK (x : Reg) (s : State) : Result := .next { s with wait := true, waitReg := x }.advance

/-- FX15 `LD DT, VX` (R195). -/
def execLdDtVx (x : Reg) (s : State) : Result := .next { s with dt := s.reg x }.advance

/-- FX18 `LD ST, VX` (R196). -/
def execLdStVx (x : Reg) (s : State) : Result := .next { s with st := s.reg x }.advance

end Sys2Proof.Machine
end

