-- ==== Sys2Proof/Syntax.lean ====
section
/-! DEFINITION. The 34 instructions of the CHIP-8 CORE, one constructor for each row of R94
(30_encoding.md) and of spec/opcode_table.json, in the table's order. A constructor carries the
operand fields of its format (R92) at exactly their width, don't-care fields included (R97, R102). -/

namespace Sys2Proof

/-- One instruction with its decoded operands (R94, R103). -/
inductive Instr where
  /-- 00E0 `CLS` -/
  | cls
  /-- 00EE `RET` -/
  | ret
  /-- 1NNN `JP NNN` -/
  | jp (nnn : Addr12)
  /-- 2NNN `CALL NNN` -/
  | call (nnn : Addr12)
  /-- 3XNN `SE VX, NN` -/
  | seImm (x : Reg) (nn : Byte)
  /-- 4XNN `SNE VX, NN` -/
  | sneImm (x : Reg) (nn : Byte)
  /-- 5XY0 `SE VX, VY` -/
  | seReg (x y : Reg)
  /-- 6XNN `LD VX, NN` -/
  | ldImm (x : Reg) (nn : Byte)
  /-- 7XNN `ADD VX, NN` -/
  | addImm (x : Reg) (nn : Byte)
  /-- 8XY0 `LD VX, VY` -/
  | ldReg (x y : Reg)
  /-- 8XY1 `OR VX, VY` -/
  | orReg (x y : Reg)
  /-- 8XY2 `AND VX, VY` -/
  | andReg (x y : Reg)
  /-- 8XY3 `XOR VX, VY` -/
  | xorReg (x y : Reg)
  /-- 8XY4 `ADD VX, VY` -/
  | addReg (x y : Reg)
  /-- 8XY5 `SUB VX, VY` -/
  | subReg (x y : Reg)
  /-- 8XY6 `SHR VX`; the Y field is a don't-care that the word keeps (R97) -/
  | shr (x y : Reg)
  /-- 8XY7 `SUBN VX, VY` -/
  | subnReg (x y : Reg)
  /-- 8XYE `SHL VX`; the Y field is a don't-care that the word keeps (R97) -/
  | shl (x y : Reg)
  /-- 9XY0 `SNE VX, VY` -/
  | sneReg (x y : Reg)
  /-- ANNN `LD I, NNN` -/
  | ldI (nnn : Addr12)
  /-- BNNN `JP V0, NNN` -/
  | jpV0 (nnn : Addr12)
  /-- CXNN `RND VX, NN` -/
  | rnd (x : Reg) (nn : Byte)
  /-- DXYN `DRW VX, VY, N` -/
  | drw (x y : Reg) (n : Nibble)
  /-- EX9E `SKP VX` -/
  | skp (x : Reg)
  /-- EXA1 `SKNP VX` -/
  | sknp (x : Reg)
  /-- FX07 `LD VX, DT` -/
  | ldVxDt (x : Reg)
  /-- FX0A `LD VX, K` -/
  | ldVxK (x : Reg)
  /-- FX15 `LD DT, VX` -/
  | ldDtVx (x : Reg)
  /-- FX18 `LD ST, VX` -/
  | ldStVx (x : Reg)
  /-- FX1E `ADD I, VX` -/
  | addI (x : Reg)
  /-- FX29 `LD F, VX` -/
  | ldF (x : Reg)
  /-- FX33 `LD B, VX` -/
  | ldB (x : Reg)
  /-- FX55 `LD [I], VX`; X is a don't-care that the word keeps (R97) -/
  | dumpRegs (x : Reg)
  /-- FX65 `LD VX, [I]`; X is a don't-care that the word keeps (R97) -/
  | loadRegs (x : Reg)
  deriving DecidableEq, Repr

/-- The mnemonic of the instruction's row, as spec/opcode_table.json spells it (labels only, R100). -/
def Instr.mnemonic : Instr → String
  | .cls => "CLS"
  | .ret => "RET"
  | .jp _ => "JP_NNN"
  | .call _ => "CALL_NNN"
  | .seImm _ _ => "SE_VX__NN"
  | .sneImm _ _ => "SNE_VX__NN"
  | .seReg _ _ => "SE_VX__VY"
  | .ldImm _ _ => "LD_VX__NN"
  | .addImm _ _ => "ADD_VX__NN"
  | .ldReg _ _ => "LD_VX__VY"
  | .orReg _ _ => "OR_VX__VY"
  | .andReg _ _ => "AND_VX__VY"
  | .xorReg _ _ => "XOR_VX__VY"
  | .addReg _ _ => "ADD_VX__VY"
  | .subReg _ _ => "SUB_VX__VY"
  | .shr _ _ => "SHR_VX"
  | .subnReg _ _ => "SUBN_VX__VY"
  | .shl _ _ => "SHL_VX"
  | .sneReg _ _ => "SNE_VX__VY"
  | .ldI _ => "LD_I__NNN"
  | .jpV0 _ => "JP_V0__NNN"
  | .rnd _ _ => "RND_VX__NN"
  | .drw _ _ _ => "DRW_VX__VY__N"
  | .skp _ => "SKP_VX"
  | .sknp _ => "SKNP_VX"
  | .ldVxDt _ => "LD_VX__DT"
  | .ldVxK _ => "LD_VX__K"
  | .ldDtVx _ => "LD_DT__VX"
  | .ldStVx _ => "LD_ST__VX"
  | .addI _ => "ADD_I__VX"
  | .ldF _ => "LD_F__VX"
  | .ldB _ => "LD_B__VX"
  | .dumpRegs _ => "LD__I___VX"
  | .loadRegs _ => "LD_VX___I"

end Sys2Proof
end

