-- ==== Sys2Proof/WellFormed.lean ====
section
/-! DEFINITION. Which instruction words are well formed: the opcode table of R94 (30_encoding.md) as
rows of a mask and a match, written out from the table and used by no decoder. An `Instr` needs no
check of its own: each operand is typed at exactly the width of its field (R91, R93), so no term of
`Instr` is ill formed; what can be ill formed is a word, or a byte sequence that is no word. -/

namespace Sys2Proof

/-- One row of the opcode map: a word `op` selects it when `op and mask = match` (R94). -/
structure OpRow where
  mnemonic : String
  mask : Word
  pattern : Word
  deriving DecidableEq, Repr

/-- The selection test of R94. -/
def OpRow.selects (r : OpRow) (op : Word) : Bool := op &&& r.mask == r.pattern

/-- Rows 1 to 9 of R94. -/
def opcodeRowsA : List OpRow :=
  [⟨"CLS", 0xFFFF, 0x00E0⟩, ⟨"RET", 0xFFFF, 0x00EE⟩, ⟨"JP_NNN", 0xF000, 0x1000⟩,
   ⟨"CALL_NNN", 0xF000, 0x2000⟩, ⟨"SE_VX__NN", 0xF000, 0x3000⟩, ⟨"SNE_VX__NN", 0xF000, 0x4000⟩,
   ⟨"SE_VX__VY", 0xF00F, 0x5000⟩, ⟨"LD_VX__NN", 0xF000, 0x6000⟩, ⟨"ADD_VX__NN", 0xF000, 0x7000⟩]

/-- Rows 10 to 19 of R94. -/
def opcodeRowsB : List OpRow :=
  [⟨"LD_VX__VY", 0xF00F, 0x8000⟩, ⟨"OR_VX__VY", 0xF00F, 0x8001⟩, ⟨"AND_VX__VY", 0xF00F, 0x8002⟩,
   ⟨"XOR_VX__VY", 0xF00F, 0x8003⟩, ⟨"ADD_VX__VY", 0xF00F, 0x8004⟩, ⟨"SUB_VX__VY", 0xF00F, 0x8005⟩,
   ⟨"SHR_VX", 0xF00F, 0x8006⟩, ⟨"SUBN_VX__VY", 0xF00F, 0x8007⟩, ⟨"SHL_VX", 0xF00F, 0x800E⟩,
   ⟨"SNE_VX__VY", 0xF00F, 0x9000⟩]

/-- Rows 20 to 25 of R94. -/
def opcodeRowsC : List OpRow :=
  [⟨"LD_I__NNN", 0xF000, 0xA000⟩, ⟨"JP_V0__NNN", 0xF000, 0xB000⟩, ⟨"RND_VX__NN", 0xF000, 0xC000⟩,
   ⟨"DRW_VX__VY__N", 0xF000, 0xD000⟩, ⟨"SKP_VX", 0xF0FF, 0xE09E⟩, ⟨"SKNP_VX", 0xF0FF, 0xE0A1⟩]

/-- Rows 26 to 34 of R94. -/
def opcodeRowsD : List OpRow :=
  [⟨"LD_VX__DT", 0xF0FF, 0xF007⟩, ⟨"LD_VX__K", 0xF0FF, 0xF00A⟩, ⟨"LD_DT__VX", 0xF0FF, 0xF015⟩,
   ⟨"LD_ST__VX", 0xF0FF, 0xF018⟩, ⟨"ADD_I__VX", 0xF0FF, 0xF01E⟩, ⟨"LD_F__VX", 0xF0FF, 0xF029⟩,
   ⟨"LD_B__VX", 0xF0FF, 0xF033⟩, ⟨"LD__I___VX", 0xF0FF, 0xF055⟩, ⟨"LD_VX___I", 0xF0FF, 0xF065⟩]

/-- The 34 rows of R94, in the table's order. -/
def opcodeTable : List OpRow := opcodeRowsA ++ opcodeRowsB ++ opcodeRowsC ++ opcodeRowsD

/-- A word is legal when it selects a row; every other word is illegal (R96). -/
def legalWord (op : Word) : Bool := opcodeTable.any (fun r => r.selects op)

/-- The bytes of one instruction are well formed: exactly two (R90), forming a legal word, high byte
first (R64). -/
def legalBytes : List Byte → Bool
  | [hi, lo] => legalWord (wordOfBytes hi lo)
  | _ => false

end Sys2Proof
end

