-- ==== Sys2Proof/Decode.lean ====
section
/-! DEFINITION. From an instruction's bytes to an `Instr` or a rejection by name (R90 to R99 of
30_encoding.md), total on any bytes; and back: `encode`, written from the formats of R92. -/

namespace Sys2Proof

/-- What decoding a word answers: an instruction, or `DecodeError(op)` for an illegal word (R96). -/
inductive DecodeResult where
  | instr (i : Instr)
  | decodeError (op : Word)
  deriving DecidableEq, Repr

/-- What decoding bytes answers: what their word decodes to, or `notOneWord` for bytes that are not
exactly one two-byte word (R90). -/
inductive BytesResult where
  | word (r : DecodeResult)
  | notOneWord
  deriving DecidableEq, Repr

/-! ### The fields of a word (R91) -/

/-- `T = op[15:12]`. -/
def fieldT (op : Word) : Nibble := op.extractLsb' 12 4

/-- The nibble `op[11:8]`, the field X. -/
def fieldX (op : Word) : Reg := (op.extractLsb' 8 4).toFin

/-- The nibble `op[7:4]`, the field Y. -/
def fieldY (op : Word) : Reg := (op.extractLsb' 4 4).toFin

/-- `N = op[3:0]`. -/
def fieldN (op : Word) : Nibble := op.extractLsb' 0 4

/-- `NN = op[7:0]`. -/
def fieldNN (op : Word) : Byte := op.extractLsb' 0 8

/-- `NNN = op[11:0]`. -/
def fieldNNN (op : Word) : Addr12 := op.extractLsb' 0 12

/-! ### Decoding (R95) -/

/-- T = 0: "dispatch on the full opcode" (R95). -/
def decode0 (op : Word) : DecodeResult :=
  if op = 0x00E0 then .instr .cls
  else if op = 0x00EE then .instr .ret
  else .decodeError op

/-- T = 5 and T = 9: the low nibble must be 0 unless `STRICT_LOW_NIBBLE` is off (R95, R96). -/
def decodeLowNibbleZero (op : Word) (i : Instr) : DecodeResult :=
  if fieldN op = 0 || !Config.strictLowNibble then .instr i else .decodeError op

/-- T = 8: the low nibble selects the operation (R95); 8XY0 exists when `HAS_8XY0` (R164). -/
def decode8 (op : Word) : DecodeResult :=
  match (fieldN op).toNat with
  | 0x0 => if Config.has8xy0 then .instr (.ldReg (fieldX op) (fieldY op)) else .decodeError op
  | 0x1 => .instr (.orReg (fieldX op) (fieldY op))
  | 0x2 => .instr (.andReg (fieldX op) (fieldY op))
  | 0x3 => .instr (.xorReg (fieldX op) (fieldY op))
  | 0x4 => .instr (.addReg (fieldX op) (fieldY op))
  | 0x5 => .instr (.subReg (fieldX op) (fieldY op))
  | 0x6 => .instr (.shr (fieldX op) (fieldY op))
  | 0x7 => .instr (.subnReg (fieldX op) (fieldY op))
  | 0xE => .instr (.shl (fieldX op) (fieldY op))
  | _ => .decodeError op

/-- T = E: the low byte selects the key skip (R95). -/
def decodeE (op : Word) : DecodeResult :=
  match (fieldNN op).toNat with
  | 0x9E => .instr (.skp (fieldX op))
  | 0xA1 => .instr (.sknp (fieldX op))
  | _ => .decodeError op

/-- T = F: the low byte selects rows 26 to 34 (R95). -/
def decodeF (op : Word) : DecodeResult :=
  match (fieldNN op).toNat with
  | 0x07 => .instr (.ldVxDt (fieldX op))
  | 0x0A => .instr (.ldVxK (fieldX op))
  | 0x15 => .instr (.ldDtVx (fieldX op))
  | 0x18 => .instr (.ldStVx (fieldX op))
  | 0x1E => .instr (.addI (fieldX op))
  | 0x29 => .instr (.ldF (fieldX op))
  | 0x33 => .instr (.ldB (fieldX op))
  | 0x55 => .instr (.dumpRegs (fieldX op))
  | 0x65 => .instr (.loadRegs (fieldX op))
  | _ => .decodeError op

/-- `Decode(op)`: "Classify by the top 4 bits, then dispatch on the full opcode or a secondary nibble
as needed" (R95). Total; every word that is no instruction is `DecodeError(op)` (R96). -/
def decode (op : Word) : DecodeResult :=
  match (fieldT op).toNat with
  | 0x0 => decode0 op
  | 0x1 => .instr (.jp (fieldNNN op))
  | 0x2 => .instr (.call (fieldNNN op))
  | 0x3 => .instr (.seImm (fieldX op) (fieldNN op))
  | 0x4 => .instr (.sneImm (fieldX op) (fieldNN op))
  | 0x5 => decodeLowNibbleZero op (.seReg (fieldX op) (fieldY op))
  | 0x6 => .instr (.ldImm (fieldX op) (fieldNN op))
  | 0x7 => .instr (.addImm (fieldX op) (fieldNN op))
  | 0x8 => decode8 op
  | 0x9 => decodeLowNibbleZero op (.sneReg (fieldX op) (fieldY op))
  | 0xA => .instr (.ldI (fieldNNN op))
  | 0xB => .instr (.jpV0 (fieldNNN op))
  | 0xC => .instr (.rnd (fieldX op) (fieldNN op))
  | 0xD => .instr (.drw (fieldX op) (fieldY op) (fieldN op))
  | 0xE => decodeE op
  | 0xF => decodeF op
  | _ => .decodeError op

/-- Decoding of an instruction's bytes in memory order, high byte first (R64, R90). -/
def decodeBytes : List Byte → BytesResult
  | [hi, lo] => .word (decode (wordOfBytes hi lo))
  | _ => .notOneWord

/-! ### Encoding (R92, R94, R102) -/

/-- The nibble that holds a register number. -/
def nibbleOfReg (x : Reg) : Nibble := BitVec.ofFin x

/-- Format NNN: `T nnn nnn nnn` (R92). -/
def formatNNN (t : Nibble) (nnn : Addr12) : Word := t ++ nnn

/-- Formats XNN and X: `T xxxx` and a low byte that is an immediate or a selector (R92). -/
def formatXNN (t : Nibble) (x : Reg) (low : Byte) : Word := t ++ nibbleOfReg x ++ low

/-- Formats XY and XYN: `T xxxx yyyy` and a low nibble that is a selector or a row count (R92). -/
def formatXYN (t : Nibble) (x y : Reg) (low : Nibble) : Word :=
  t ++ nibbleOfReg x ++ nibbleOfReg y ++ low

/-- The word of an instruction (R92, R94). -/
def encode : Instr → Word
  | .cls => 0x00E0
  | .ret => 0x00EE
  | .jp nnn => formatNNN 0x1 nnn
  | .call nnn => formatNNN 0x2 nnn
  | .seImm x nn => formatXNN 0x3 x nn
  | .sneImm x nn => formatXNN 0x4 x nn
  | .seReg x y => formatXYN 0x5 x y 0x0
  | .ldImm x nn => formatXNN 0x6 x nn
  | .addImm x nn => formatXNN 0x7 x nn
  | .ldReg x y => formatXYN 0x8 x y 0x0
  | .orReg x y => formatXYN 0x8 x y 0x1
  | .andReg x y => formatXYN 0x8 x y 0x2
  | .xorReg x y => formatXYN 0x8 x y 0x3
  | .addReg x y => formatXYN 0x8 x y 0x4
  | .subReg x y => formatXYN 0x8 x y 0x5
  | .shr x y => formatXYN 0x8 x y 0x6
  | .subnReg x y => formatXYN 0x8 x y 0x7
  | .shl x y => formatXYN 0x8 x y 0xE
  | .sneReg x y => formatXYN 0x9 x y 0x0
  | .ldI nnn => formatNNN 0xA nnn
  | .jpV0 nnn => formatNNN 0xB nnn
  | .rnd x nn => formatXNN 0xC x nn
  | .drw x y n => formatXYN 0xD x y n
  | .skp x => formatXNN 0xE x 0x9E
  | .sknp x => formatXNN 0xE x 0xA1
  | .ldVxDt x => formatXNN 0xF x 0x07
  | .ldVxK x => formatXNN 0xF x 0x0A
  | .ldDtVx x => formatXNN 0xF x 0x15
  | .ldStVx x => formatXNN 0xF x 0x18
  | .addI x => formatXNN 0xF x 0x1E
  | .ldF x => formatXNN 0xF x 0x29
  | .ldB x => formatXNN 0xF x 0x33
  | .dumpRegs x => formatXNN 0xF x 0x55
  | .loadRegs x => formatXNN 0xF x 0x65

/-! ### The bytes of a word, and the opcode table's numbering -/

/-- The bytes of an instruction word as memory holds them: `T ++ X` at the lower address (R64, R91). -/
def bytesOfWord (op : Word) : List Byte := [op.extractLsb' 8 8, op.extractLsb' 0 8]

/-- The bytes of the instruction whose `nbits` low bits are those of `w`, the bits above 0. -/
def tableBytes (nbits w : Nat) : List Byte := bytesOfWord (BitVec.ofNat 16 (w % 2 ^ nbits))

/-- The instruction the decoder reads from an instruction whose bits are `w`, numbered as
spec/opcode_table.json numbers them. An instruction has 16 bits (R90): a longer one is none. -/
def decodeTableWord (nbits w : Nat) : Option Instr :=
  if 16 < nbits then none
  else
    match decodeBytes (tableBytes nbits w) with
    | .word (.instr i) => some i
    | .word (.decodeError _) => none
    | .notOneWord => none

end Sys2Proof
end

