-- ==== Sys2Proof/Machine/Events.lean ====
section
/-! DEFINITION. The host's events (40_step_and_host_events.md, R240) and how a step begins: which event
it is, and, for Cycle, everything up to the execution of the instruction (R122, R222). -/

namespace Sys2Proof.Machine

/-- `Tick()`: each timer is decremented on its own, never below zero, in every state (R127). -/
def tick (s : State) : State :=
  { s with dt := BitVec.ofNat 8 (s.dt.toNat - 1), st := BitVec.ofNat 8 (s.st.toNat - 1) }

/-- The key that is reported pressed ends the blocking-wait (R129): any key under the decided
`KEYWAIT_MATCH`; else the key numbered by the low nibble of `VX`, which nothing changes during the
wait (log entry 10). -/
def State.awaits (s : State) (k : Key) : Bool :=
  match Config.keywaitMatch with
  | .any => true
  | .numberedByVx => decide ((s.reg s.waitReg).toNat % 16 = k.val)

/-- `SetKey(k, pressed)` for k in 0 to 15 (R129): the argument `pressed` counts, not a change of the
key's state (conflict C4). -/
def setKeyInRange (k : Key) (pressed : Bool) (s : State) : State :=
  if s.wait && pressed && s.awaits k then
    { s with keys := s.keys.set k.val pressed, v := s.v.set s.waitReg.val (BitVec.ofNat 8 k.val),
             wait := false }
  else { s with keys := s.keys.set k.val pressed }

/-- `SetKey(index, pressed)`: an index above 0xF returns `InputError::OutOfRange` and changes nothing
(R128). -/
def setKey (index : Nat) (pressed : Bool) (s : State) : State :=
  if h : index < 16 then { setKeyInRange ⟨index, h⟩ pressed s with reply := .ok }
  else { s with reply := .inputOutOfRange }

/-- `Load(bytes)`: copies the bytes to 0x200 upward; more than 3232 bytes return
`LoadError::TooLarge` and change nothing (R126). -/
def load (bytes : List Byte) (s : State) : State :=
  if Config.romMax < bytes.length then { s with reply := .loadTooLarge }
  else { s with mem := writeBytes s.mem Config.progBase bytes, reply := .ok }

/-- `Snapshot()`: returns the pixels, changes nothing (R130). -/
def snapshot (s : State) : State := { s with reply := .frame s.fb }

/-- `AckFrame()`: `DIRTY <- 0` (R131). -/
def ackFrame (s : State) : State := { s with dirty := false }

/-- `Reset()`, in any state (R240). The host's remaining events and the count of draws are not the
block's and stay. -/
def resetEvent (s : State) : State := { State.reset with inputs := s.inputs, draws := s.draws }

/-- What a step does: it is over (`done`), or one instruction executes (`run`). -/
inductive Started where
  | done (s : State)
  | run (i : Instr) (s : State)
  deriving DecidableEq, Repr

/-- The fetch and decode of `Cycle(rnd)` (R122): the order of the checks is (3) fetch bounds, (4) decode
(R222); the instruction makes its own check (5). `r` is the `rnd` of the event. -/
def startInstr (r : Option Byte) (s : State) : Started :=
  match fetchWord s with
  | none => .done (s.raiseMemory s.pc.toNat)
  | some op =>
    match decode op with
    | .decodeError bad => .done (s.raise .decodeError bad)
    | .instr i => .run i { s with rnd := r }

/-- `Cycle(rnd)` up to its `Execute`: (1) nothing when `FAULT != NONE` (R123), (2) nothing when
`WAIT = 1` (R124), then fetch and decode (R122, R222). -/
def startCycle (r : Option Byte) (s : State) : Started :=
  if s.fault.isSome then .done s
  else if s.wait then .done s
  else startInstr r s

/-- The event of this step: the next of the host's schedule, or, when the schedule is empty, a Cycle
whose `rnd` is a free value (log entry 1). -/
def startStep (s : State) : Started :=
  match s.inputs with
  | [] => startCycle none s
  | .cycle r :: es => startCycle (some r) { s with inputs := es }
  | .tick :: es => .done (tick { s with inputs := es })
  | .setKey index pressed :: es => .done (setKey index pressed { s with inputs := es })
  | .load bytes :: es => .done (load bytes { s with inputs := es })
  | .snapshot :: es => .done (snapshot { s with inputs := es })
  | .ackFrame :: es => .done (ackFrame { s with inputs := es })
  | .reset :: es => .done (resetEvent { s with inputs := es })

/-- Where the next Cycle fetches from once an instruction is to be placed there: `PC`, or the reset
entry 0x200 when nothing can be fetched at `PC` (R62, R241). -/
def fetchPlace (s : State) : Word :=
  if outOfRange s.pc.toNat 2 then BitVec.ofNat 16 Config.progBase else s.pc

/-- `s` with the bytes stored where the next step fetches, in a state whose next step is a Cycle that
fetches: no event scheduled before it, no fault, no wait, a `PC` that can be fetched from. -/
def placeAtFetch (s : State) (bytes : List Byte) : State :=
  { s with mem := writeBytes s.mem (fetchPlace s).toNat bytes, pc := fetchPlace s, inputs := [],
           fault := none, wait := false, rnd := none }

end Sys2Proof.Machine
end

