-- ==== Sys2Proof/Machine/Step.lean ====
section
/-! DEFINITION. One step of the machine: one event of the host (R120). -/

namespace Sys2Proof.Machine

/-- One event: `startStep` says what it does, and an instruction that executes is `exec`'s (R122). -/
def step (s : State) : Host.Outcome State Fault Refusal :=
  match startStep s with
  | .done t => .next t
  | .run i t => exec i t

/-- `s` with the instruction whose bits are `w` (numbered as spec/opcode_table.json numbers them)
stored where the next step fetches, high byte first (R64; log entry 15). -/
def State.withFetchWord (s : State) (nbits w : Nat) : State := placeAtFetch s (tableBytes nbits w)

end Sys2Proof.Machine
end

