-- ==== Sys2Proof/Safety.lean ====
section
/-! DEFINITION. The words that statements about the machine use: what stays the same between two
states, the invariant of R46, the three ways a run stands still (R246), and what a run of events is. -/

namespace Sys2Proof.Machine

/-- The parts of the state, one for each field of `State`. -/
inductive Part where
  | v | i | pc | stack | sp | dt | st | keys | wait | waitReg | fb | dirty | mem | fault
  | inputs | reply | rnd | draws
  deriving DecidableEq, Repr

/-- A part is the same in two states; for memory, every byte reads the same. -/
def Part.same : Part → State → State → Prop
  | .v, s, t => t.v = s.v
  | .i, s, t => t.i = s.i
  | .pc, s, t => t.pc = s.pc
  | .stack, s, t => t.stack = s.stack
  | .sp, s, t => t.sp = s.sp
  | .dt, s, t => t.dt = s.dt
  | .st, s, t => t.st = s.st
  | .keys, s, t => t.keys = s.keys
  | .wait, s, t => t.wait = s.wait
  | .waitReg, s, t => t.waitReg = s.waitReg
  | .fb, s, t => t.fb = s.fb
  | .dirty, s, t => t.dirty = s.dirty
  | .mem, s, t => ∀ a, readByte t.mem a = readByte s.mem a
  | .fault, s, t => t.fault = s.fault
  | .inputs, s, t => t.inputs = s.inputs
  | .reply, s, t => t.reply = s.reply
  | .rnd, s, t => t.rnd = s.rnd
  | .draws, s, t => t.draws = s.draws

/-- Every part outside the list is the same. -/
def KeepsAllBut (changed : List Part) (s t : State) : Prop := ∀ p, p ∉ changed → p.same s t

/-- Every V register outside the list is the same. -/
def KeepsRegsBut (changed : List Reg) (s t : State) : Prop := ∀ r, r ∉ changed → t.reg r = s.reg r

/-- `t` is `s` after `raise <code>(info)`: `FAULT` holds the pair and nothing else differs (R212). -/
def Raises (s t : State) (code : FaultCode) (info : Word) : Prop :=
  t.fault = some ⟨code, info⟩ ∧ KeepsAllBut [.fault] s t

/-- The next step is a Cycle: the host has scheduled one, or has scheduled nothing. -/
def NextIsCycle (s : State) : Prop := s.inputs = [] ∨ ∃ r es, s.inputs = .cycle r :: es

/-- The schedule's first event is taken from it. -/
def State.dropEvent (s : State) : State := { s with inputs := s.inputs.tail }

/-- If nothing holds the block back, its next Cycle raises this fault and does nothing else. -/
def NextCycleRaises (s : State) (code : FaultCode) (info : Word) : Prop :=
  NextIsCycle s → s.fault = none → s.wait = false →
    ∃ t, step s = .next t ∧ Raises s.dropEvent t code info

/-- The invariant of R46, with the canonical form of memory. `SP` is at most 16 by its type. -/
structure State.Inv (s : State) : Prop where
  /-- memory is in its canonical form -/
  memory : s.mem.wf
  /-- `PC <= 0x10FE` -/
  pcRange : s.pc.toNat ≤ 0x10FE
  /-- every valid stack entry is between 0x0002 and 0x1000 -/
  entries : ∀ j : Fin 16, j.val < s.sp.val → 0x0002 ≤ s.stack[j.val].toNat ∧ s.stack[j.val].toNat ≤ 0x1000
  /-- a waiting block is not faulted -/
  waiting : s.wait = true → s.fault = none

/-- The state in which a Cycle executes its instruction: the event is taken from the schedule and its
`rnd` byte is at hand (R121). -/
def State.atExecute (s : State) : State :=
  match s.inputs with
  | .cycle r :: es => { s with inputs := es, rnd := some r }
  | es => { s with inputs := es, rnd := none }

/-- R246 (a): `PC` is at a jump to itself. -/
def State.Spinning (s : State) : Prop :=
  s.fault = none ∧ s.wait = false ∧ ∃ nnn : Addr12, addressOf nnn = s.pc ∧
    fetchWord s = some (0x1#4 ++ nnn)

/-- R246 (b): a fault has stopped the block. -/
def State.Halted (s : State) : Prop := s.fault ≠ none

/-- R246 (c): the block waits for a key and no press is to come: the host's schedule holds none, and
after the schedule there are only Cycle events. -/
def State.Blocked (s : State) : Prop := s.wait = true ∧ ∀ k, k < 16 → Event.setKey k true ∉ s.inputs

/-- What counts as a safe run: `k` steps from `s` that end in no fault (R216: every claim about a
program's result takes `FAULT = NONE` as a premise). -/
def SafeRun (s : State) (k : Nat) : Prop :=
  ∀ j, j ≤ k → ∃ t, Sys2Proof.core.run j s = .next t ∧ t.fault = none

/-- An event that leaves a blocking-wait as it is: any but Reset and the press of a key (R129, R230). -/
def Event.keepsWait : Event → Bool
  | .cycle _ => true
  | .tick => true
  | .setKey index pressed => !(pressed && decide (index < 16))
  | .load _ => true
  | .snapshot => true
  | .ackFrame => true
  | .reset => false

/-- The states agree on everything that any rule reads: all but the stack slots at `SP` and above
(R39), and `WAIT_REG` while `WAIT = 0` (R33). -/
structure AgreeLive (s t : State) : Prop where
  same : KeepsAllBut [.stack, .waitReg, .mem] s t
  memory : s.mem = t.mem
  entries : ∀ j : Fin 16, j.val < s.sp.val → s.stack[j.val] = t.stack[j.val]
  awaited : s.wait = true → s.waitReg = t.waitReg

/-- The sprite of `DXYN` on the state `s` has a 1 bit on the pixel (px, py): bit `7 - c` of its byte r,
with column c at `(VX mod 64 + c) mod 64` and row r at `(VY mod 32 + r) mod 32` (R200, R202). -/
def SpriteSets (s : State) (x y : Reg) (n : Nibble) (px : Col) (py : Row) : Prop :=
  ∃ r c, r < n.toNat ∧ c < 8 ∧ px.val = ((s.reg x).toNat % 64 + c) % 64 ∧
    py.val = ((s.reg y).toNat % 32 + r) % 32 ∧
    (readByte s.mem (dataAddress s.i r)).getLsbD (7 - c) = true

/-- `max(a, 0x1000)` of a 16-bit first address: the info of a MemoryFault (R211). -/
def firstOutside (a : Word) : Word := if a.toNat ≤ 0x1000 then 0x1000 else a

/-- `PC` after an instruction that raises nothing (R24). -/
def listedPc (s : State) : Instr → Word
  | .jp nnn | .call nnn => nnn.setWidth 16
  | .jpV0 nnn => BitVec.ofNat 16 ((s.reg 0).toNat + nnn.toNat)
  | .ret => (s.stack[s.sp.val - 1]?).getD 0
  | .seImm x nn => if s.reg x = nn then s.pc + 4 else s.pc + 2
  | .sneImm x nn => if s.reg x ≠ nn then s.pc + 4 else s.pc + 2
  | .seReg x y => if s.reg x = s.reg y then s.pc + 4 else s.pc + 2
  | .sneReg x y => if s.reg x ≠ s.reg y then s.pc + 4 else s.pc + 2
  | .skp x => if s.keys[(s.reg x).toNat % 16]? = some true then s.pc + 4 else s.pc + 2
  | .sknp x => if s.keys[(s.reg x).toNat % 16]? = some false then s.pc + 4 else s.pc + 2
  | .cls | .ldImm _ _ | .addImm _ _ | .ldReg _ _ | .orReg _ _ | .andReg _ _ | .xorReg _ _
  | .addReg _ _ | .subReg _ _ | .shr _ _ | .subnReg _ _ | .shl _ _ | .ldI _ | .rnd _ _ | .drw _ _ _
  | .ldVxDt _ | .ldVxK _ | .ldDtVx _ | .ldStVx _ | .addI _ | .ldF _ | .ldB _ | .dumpRegs _
  | .loadRegs _ => s.pc + 2

/-- The parts of the state that an instruction may write (R21, R28, R30 to R37, R41, R42, R69, R231);
`draws` is the model's own count of CXNN. -/
def mayWrite : Instr → List Part
  | .jp _ | .jpV0 _ | .seImm _ _ | .sneImm _ _ | .seReg _ _ | .sneReg _ _ | .skp _ | .sknp _ => [.pc]
  | .call _ | .ret => [.pc, .stack, .sp, .fault]
  | .ldImm _ _ | .addImm _ _ | .ldReg _ _ | .orReg _ _ | .andReg _ _ | .xorReg _ _ | .addReg _ _
  | .subReg _ _ | .shr _ _ | .subnReg _ _ | .shl _ _ | .ldVxDt _ => [.pc, .v]
  | .rnd _ _ => [.pc, .v, .draws]
  | .ldI _ | .ldF _ => [.pc, .i]
  | .addI _ => [.pc, .i, .v]
  | .ldVxK _ => [.pc, .wait, .waitReg]
  | .ldDtVx _ => [.pc, .dt]
  | .ldStVx _ => [.pc, .st]
  | .ldB _ | .dumpRegs _ => [.pc, .mem, .fault]
  | .loadRegs _ => [.pc, .v, .fault]
  | .cls => [.pc, .fb, .dirty]
  | .drw _ _ _ => [.pc, .fb, .dirty, .v, .fault]

/-- The instruction writes VF as a flag (R28). -/
def writesFlag : Instr → Bool
  | .addReg _ _ | .subReg _ _ | .subnReg _ _ | .shr _ _ | .shl _ _ | .drw _ _ _ | .addI _ => true
  | .cls | .ret | .jp _ | .call _ | .seImm _ _ | .sneImm _ _ | .seReg _ _ | .ldImm _ _ | .addImm _ _
  | .ldReg _ _ | .orReg _ _ | .andReg _ _ | .xorReg _ _ | .sneReg _ _ | .ldI _ | .jpV0 _ | .rnd _ _
  | .skp _ | .sknp _ | .ldVxDt _ | .ldVxK _ | .ldDtVx _ | .ldStVx _ | .ldF _ | .ldB _ | .dumpRegs _
  | .loadRegs _ => false

/-- The instruction names VF as the register it writes, or is FX65, which writes all sixteen (R28). -/
def namesVf : Instr → Bool
  | .ldImm x _ | .addImm x _ | .ldReg x _ | .orReg x _ | .andReg x _ | .xorReg x _ | .rnd x _
  | .ldVxDt x => x == VF
  | .loadRegs _ => true
  | .addReg x _ | .subReg x _ | .subnReg x _ | .shr x _ | .shl x _ => x == VF
  | .cls | .ret | .jp _ | .call _ | .seImm _ _ | .sneImm _ _ | .seReg _ _ | .sneReg _ _ | .ldI _
  | .jpV0 _ | .drw _ _ _ | .skp _ | .sknp _ | .ldVxK _ | .ldDtVx _ | .ldStVx _ | .addI _ | .ldF _
  | .ldB _ | .dumpRegs _ => false

/-- The fault an instruction raises by itself, and when (R231). -/
def MayRaise (s : State) (i : Instr) (f : FaultRecord) : Prop :=
  (i = .ret ∧ s.sp.val = 0 ∧ f = ⟨.stackUnderflow, s.pc⟩) ∨
  ((∃ nnn, i = .call nnn) ∧ s.sp.val = 16 ∧ f = ⟨.stackOverflow, s.pc⟩) ∨
  ((∃ x, i = .ldB x) ∧ 0xFFF < s.i.toNat + 2 ∧ f = ⟨.memoryFault, firstOutside s.i⟩) ∨
  ((∃ x, i = .dumpRegs x ∨ i = .loadRegs x) ∧ 0xFFF < s.i.toNat + 15 ∧
    f = ⟨.memoryFault, firstOutside s.i⟩) ∨
  (∃ x y n, i = .drw x y n ∧ 0 < n.toNat ∧ 0xFFF < s.i.toNat + n.toNat - 1 ∧
    f = ⟨.memoryFault, firstOutside s.i⟩)

end Sys2Proof.Machine
end

