-- ==== Sys2Proof/Certificates/Slice0/Obligations.lean ====
section
/-! DEFINITION. The statements for the provers. Each says in its docstring which rule of the spec it
formalises; `D<n>` is a decision the spec marks as its own (92_eei_decisions.md), `G<n>` a passage it
marks as general knowledge (93_implementation_defined.md). Every statement about an instruction holds
for every operand the encoding admits and says, by `KeepsAllBut` and `KeepsRegsBut`, what is unchanged. -/

open Sys2Proof Sys2Proof.Machine

/-! ### The step and the events (40_step_and_host_events.md, 70_reset_and_hazards.md) -/

/-- R122: a Cycle that passes the tests executes exactly the instruction that the two bytes at `PC`
decode to. The event is first taken from the schedule and its `rnd` put at hand (`atExecute`, the
model's own fields, log entries 1 and 2); the instruction's own rule moves `PC` (R125). -/
def Obligations.StepRunsDecodedInstruction : Prop :=
  ∀ (s : State) (i : Instr), NextIsCycle s → s.fault = none → s.wait = false → s.pc.toNat ≤ 0xFFE →
    decode (wordOfBytes (readByte s.mem s.pc.toNat) (readByte s.mem (s.pc.toNat + 1))) = .instr i →
    step s = exec i s.atExecute

/-- R123 (D12), R124: a Cycle changes nothing when `FAULT != NONE` or `WAIT = 1`; the event is gone from
the schedule (the model's own field). -/
def Obligations.HaltedOrWaitingCycleChangesNothing : Prop :=
  ∀ s : State, NextIsCycle s → s.fault ≠ none ∨ s.wait = true → step s = .next s.dropEvent

/-- R62, R219, R222 (D11, D12): a fetch with `PC > 0xFFE` raises MemoryFault(max(PC, 0x1000)). -/
def Obligations.FetchBeyondMemoryRaisesMemoryFault : Prop :=
  ∀ s : State, 0xFFE < s.pc.toNat → NextCycleRaises s .memoryFault (firstOutside s.pc)

/-- R214: a fetched word that is no instruction raises DecodeError with the word as its info; `PC` and
everything else stay. -/
def Obligations.IllegalWordRaisesDecodeError : Prop :=
  ∀ (s : State) (op : Word), s.pc.toNat ≤ 0xFFE →
    op = wordOfBytes (readByte s.mem s.pc.toNat) (readByte s.mem (s.pc.toNat + 1)) →
    (∀ i, decode op ≠ .instr i) → NextCycleRaises s .decodeError op

/-- R64: fetch is big-endian, whatever the state. -/
def Obligations.FetchIsBigEndian : Prop :=
  ∀ s : State, s.pc.toNat ≤ 0xFFE → ∃ op, fetchWord s = some op ∧
    op.extractLsb' 8 8 = readByte s.mem s.pc.toNat ∧
    op.extractLsb' 0 8 = readByte s.mem (s.pc.toNat + 1)

/-- R126 (D20): Load copies at most 3232 bytes to 0x200 upward and changes no other byte; a longer ROM
is refused whole. The reply is the model's own field for the operation's return value. -/
def Obligations.LoadCopiesOrRefusesWhole : Prop :=
  ∀ (s : State) (bytes : List Byte) (es : List Event), s.inputs = .load bytes :: es →
    ∃ t, step s = .next t ∧ t.inputs = es ∧
      (bytes.length ≤ 3232 → t.reply = .ok ∧ KeepsAllBut [.mem, .reply, .inputs] s t ∧
        (∀ j b, bytes[j]? = some b → readByte t.mem (0x200 + j) = b) ∧
        (∀ a, a < 0x200 ∨ 0x200 + bytes.length ≤ a → readByte t.mem a = readByte s.mem a)) ∧
      (3232 < bytes.length → t.reply = .loadTooLarge ∧ KeepsAllBut [.reply, .inputs] s t)

/-- R127 (D12 for the faulted state): Tick decrements each timer by one, never below zero, in every
state. -/
def Obligations.TickDecrementsEachTimer : Prop :=
  ∀ (s : State) (es : List Event), s.inputs = .tick :: es →
    ∃ t, step s = .next t ∧ t.inputs = es ∧ t.dt.toNat = s.dt.toNat - 1 ∧
      t.st.toNat = s.st.toNat - 1 ∧ KeepsAllBut [.dt, .st, .inputs] s t

/-- R128, R129 (D9: any key ends the wait; D21): SetKey records the key, and a press during the
blocking-wait puts its number in the awaited register and ends the wait; an index above 15 changes
nothing. The reply (the returned error, and `ok` on success, of which R129 says nothing) and the
schedule are the model's own fields, a DESIGN CHOICE (log entry 1). -/
def Obligations.SetKeyRecordsAndWakes : Prop :=
  ∀ (s : State) (index : Nat) (pressed : Bool) (es : List Event),
    s.inputs = .setKey index pressed :: es →
    ∃ t, step s = .next t ∧ t.inputs = es ∧
      (15 < index → t.reply = .inputOutOfRange ∧ KeepsAllBut [.reply, .inputs] s t) ∧
      (index ≤ 15 → t.reply = .ok ∧ t.keys[index]? = some pressed ∧
        (∀ k, k ≠ index → t.keys[k]? = s.keys[k]?) ∧
        (s.wait = true ∧ pressed = true → (t.reg s.waitReg).toNat = index ∧ t.wait = false ∧
          KeepsRegsBut [s.waitReg] s t ∧ KeepsAllBut [.keys, .v, .wait, .reply, .inputs] s t) ∧
        (s.wait = false ∨ pressed = false → KeepsAllBut [.keys, .reply, .inputs] s t))

/-- R130: Snapshot returns the pixels as they are and changes nothing (the reply and the schedule are
the model's own fields). -/
def Obligations.SnapshotReturnsPixels : Prop :=
  ∀ (s : State) (es : List Event), s.inputs = .snapshot :: es →
    ∃ t f, step s = .next t ∧ t.reply = .frame f ∧ (∀ x y, pixel f x y = pixel s.fb x y) ∧
      t.inputs = es ∧ KeepsAllBut [.reply, .inputs] s t

/-- R131 (D19): AckFrame clears `DIRTY` and touches nothing else. -/
def Obligations.AckFrameClearsDirty : Prop :=
  ∀ (s : State) (es : List Event), s.inputs = .ackFrame :: es →
    ∃ t, step s = .next t ∧ t.dirty = false ∧ t.inputs = es ∧ KeepsAllBut [.dirty, .inputs] s t

/-- R240 (D14): Reset, in any state, gives the reset state. Beyond R240 it is the model's choice that the
stack slots and `WAIT_REG`, unspecified after Reset, are 0 (DESIGN CHOICE, log entry 12), and that of the
model's own fields the reply and the `rnd` at hand are emptied and the remaining schedule stays (DESIGN
CHOICE, log entry 27); nothing is said here of the count of draws. -/
def Obligations.ResetEventGivesResetState : Prop :=
  ∀ (s : State) (es : List Event), s.inputs = .reset :: es →
    ∃ t, step s = .next t ∧ t.inputs = es ∧ KeepsAllBut [.inputs, .draws] State.reset t

/-- R22: V0 to VF are 0x00 after Reset. -/
def Obligations.ResetZeroesVRegisters : Prop := ∀ x : Reg, State.reset.reg x = 0x00

/-- The table of R45: the values beside V0 to VF, most of them D14 and D12, the font bytes G3. -/
def Obligations.ResetTableValues : Prop :=
  State.reset.i = 0x0000 ∧ State.reset.pc = 0x0200 ∧ State.reset.sp.val = 0 ∧
  State.reset.dt = 0x00 ∧ State.reset.st = 0x00 ∧ (∀ k : Key, State.reset.keys[k.val] = false) ∧
  State.reset.wait = false ∧ (∀ x y, pixel State.reset.fb x y = false) ∧ State.reset.dirty = false ∧
  readBytes State.reset.mem 0 80 = Config.fontData ∧
  (∀ a, 80 ≤ a → readByte State.reset.mem a = 0x00) ∧ State.reset.fault = none

/-- R22, R23 and the table of R45 make R46 true right after Reset. -/
def Obligations.ResetSatisfiesInvariant : Prop := State.reset.Inv

/-- An instruction placed at the fetch address by `withFetchWord` is what the next step executes. -/
def Obligations.PlacedWordRunsNext : Prop :=
  ∀ (s : State) (w : Nat) (i : Instr), decodeTableWord 16 w = some i →
    step (s.withFetchWord 16 w) = exec i (s.withFetchWord 16 w)

/-! ### Encoding (30_encoding.md) -/

/-- R102: decoding and encoding are inverse, for every instruction with every operand and for every
legal word, don't-care bits included. -/
def Obligations.DecodeInvertsEncode : Prop := ∀ (op : Word) (i : Instr), decode op = .instr i ↔ encode i = op

/-- R94 to R96 (G1, D2, D3): a word that selects a row of the opcode table decodes to an instruction of
that row, and a word that selects none is DecodeError(op). -/
def Obligations.DecoderAgreesWithOpcodeTable : Prop :=
  ∀ op : Word,
    (∀ r ∈ opcodeTable, r.selects op = true → ∃ i, decode op = .instr i ∧ i.mnemonic = r.mnemonic) ∧
    (legalWord op = false → decode op = .decodeError op)

/-- R94: "The 34 match sets are pairwise disjoint". -/
def Obligations.OpcodeRowsAreDisjoint : Prop :=
  opcodeTable.length = 34 ∧ ∀ (op : Word), ∀ r ∈ opcodeTable, ∀ q ∈ opcodeTable,
    r.selects op = true → q.selects op = true → r = q

/-- Words written out from R91 and R94, one at least of each format. -/
def Obligations.WrittenOutWordsDecode : Prop :=
  decode 0x00E0 = .instr .cls ∧ decode 0x2210 = .instr (.call 0x210) ∧
  decode 0x71FF = .instr (.addImm 1 0xFF) ∧ decode 0x8F27 = .instr (.subnReg 15 2) ∧
  decode 0xD012 = .instr (.drw 0 1 2) ∧ decode 0xF265 = .instr (.loadRegs 2)

/-! ### Control transfer and skips (41_flow.md) -/

/-- R141: RET pops the newest entry into `PC`, and raises StackUnderflow(a) on an empty stack; a popped
0x1000 makes the next fetch raise. -/
def Obligations.RetPopsOrUnderflows : Prop :=
  ∀ s : State,
    (0 < s.sp.val → ∃ t, exec .ret s = .next t ∧ t.sp.val = s.sp.val - 1 ∧
      s.stack[s.sp.val - 1]? = some t.pc ∧
      (∀ j, j < t.sp.val → t.stack[j]? = s.stack[j]?) ∧
      (t.pc = 0x1000 → NextCycleRaises t .memoryFault 0x1000) ∧
      KeepsAllBut [.pc, .sp, .stack] s t) ∧
    (s.sp.val = 0 → ∃ t, exec .ret s = .next t ∧ Raises s t .stackUnderflow s.pc)

/-- R142: JP sets `PC` to NNN; a jump to itself changes nothing, and NNN = 0xFFF makes the next fetch
raise MemoryFault(0x1000). -/
def Obligations.JumpSetsPc : Prop :=
  ∀ (nnn : Addr12) (s : State), ∃ t, exec (.jp nnn) s = .next t ∧ t.pc.toNat = nnn.toNat ∧
    KeepsAllBut [.pc] s t ∧ (nnn.toNat = s.pc.toNat → t = s) ∧
    (nnn = 0xFFF → NextCycleRaises t .memoryFault 0x1000)

/-- R143: CALL pushes `a + 2` and sets `PC` to NNN; with 16 entries it raises StackOverflow(a) and
changes nothing else. -/
def Obligations.CallPushesReturnAddress : Prop :=
  ∀ (nnn : Addr12) (s : State),
    (s.sp.val < 16 → ∃ t, exec (.call nnn) s = .next t ∧ t.pc.toNat = nnn.toNat ∧
      t.sp.val = s.sp.val + 1 ∧ t.stack[s.sp.val]? = some (s.pc + 2) ∧
      (∀ j, j ≠ s.sp.val → t.stack[j]? = s.stack[j]?) ∧ KeepsAllBut [.pc, .sp, .stack] s t) ∧
    (s.sp.val = 16 → ∃ t, exec (.call nnn) s = .next t ∧ Raises s t .stackOverflow s.pc)

/-- S5 (95_test_vectors.md): a RET that finds the stack as the CALL left it comes back to the
instruction after the call site, with the stack as it was before the call. -/
def Obligations.RetAfterCallComesBack : Prop :=
  ∀ (nnn : Addr12) (s : State), s.sp.val < 16 → ∃ t, exec (.call nnn) s = .next t ∧
    ∀ t' : State, t'.sp = t.sp → (∀ j, j < t.sp.val → t'.stack[j]? = t.stack[j]?) →
      ∃ u, exec .ret t' = .next u ∧ u.pc = s.pc + 2 ∧ u.sp = s.sp ∧
        (∀ j, j < s.sp.val → u.stack[j]? = s.stack[j]?) ∧ KeepsAllBut [.pc, .sp, .stack] t' u

/-- R144, R145: SE and SNE on a register and an immediate skip 2 bytes when the condition holds. -/
def Obligations.SkipsOnImmediate : Prop :=
  ∀ (x : Reg) (nn : Byte) (s : State),
    (∃ t, exec (.seImm x nn) s = .next t ∧ KeepsAllBut [.pc] s t ∧
      t.pc = if s.reg x = nn then s.pc + 4 else s.pc + 2) ∧
    (∃ t, exec (.sneImm x nn) s = .next t ∧ KeepsAllBut [.pc] s t ∧
      t.pc = if s.reg x ≠ nn then s.pc + 4 else s.pc + 2)

/-- R146, R147: SE and SNE on two registers; a low nibble other than 0 is DecodeError, which rests on
`STRICT_LOW_NIBBLE` (R96), the spec's own decision D3 (log entry 11). -/
def Obligations.SkipsOnRegisters : Prop :=
  ∀ (x y : Reg) (s : State),
    (∃ t, exec (.seReg x y) s = .next t ∧ KeepsAllBut [.pc] s t ∧
      t.pc = if s.reg x = s.reg y then s.pc + 4 else s.pc + 2) ∧
    (∃ t, exec (.sneReg x y) s = .next t ∧ KeepsAllBut [.pc] s t ∧
      t.pc = if s.reg x ≠ s.reg y then s.pc + 4 else s.pc + 2) ∧
    (∀ n : Nibble, n ≠ 0 →
      decode (formatXYN 0x5 x y n) = .decodeError (formatXYN 0x5 x y n) ∧
      decode (formatXYN 0x9 x y n) = .decodeError (formatXYN 0x9 x y n))

/-- R148 (D25): JP V0 sets `PC` to the whole sum; a sum above 0xFFE makes the next fetch raise. -/
def Obligations.OffsetJumpSetsPc : Prop :=
  ∀ (nnn : Addr12) (s : State), ∃ t, exec (.jpV0 nnn) s = .next t ∧
    t.pc.toNat = (s.reg 0).toNat + nnn.toNat ∧ KeepsAllBut [.pc] s t ∧
    (0xFFE < t.pc.toNat → NextCycleRaises t .memoryFault (firstOutside t.pc))

/-! ### Arithmetic and logic (42_alu.md) -/

/-- R162, R163: LD and ADD with an immediate, modulo 256, no flag: VF changes only as the destination. -/
def Obligations.LoadAndAddImmediate : Prop :=
  ∀ (x : Reg) (nn : Byte) (s : State),
    (∃ t, exec (.ldImm x nn) s = .next t ∧ t.reg x = nn ∧ t.pc = s.pc + 2 ∧
      KeepsRegsBut [x] s t ∧ KeepsAllBut [.v, .pc] s t) ∧
    (∃ t, exec (.addImm x nn) s = .next t ∧
      (t.reg x).toNat = ((s.reg x).toNat + nn.toNat) % 256 ∧ t.pc = s.pc + 2 ∧
      KeepsRegsBut [x] s t ∧ KeepsAllBut [.v, .pc] s t)

/-- R164 (D2), R165 to R168 (D6): the register copy and the logic instructions write `VX` alone; VF
changes only as the destination. -/
def Obligations.CopyAndLogicLeaveVf : Prop :=
  ∀ (x y : Reg) (s : State),
    (∃ t, exec (.ldReg x y) s = .next t ∧ t.reg x = s.reg y ∧ t.pc = s.pc + 2 ∧
      KeepsRegsBut [x] s t ∧ KeepsAllBut [.v, .pc] s t) ∧
    (∃ t, exec (.orReg x y) s = .next t ∧ t.reg x = (s.reg x ||| s.reg y) ∧ t.pc = s.pc + 2 ∧
      KeepsRegsBut [x] s t ∧ KeepsAllBut [.v, .pc] s t) ∧
    (∃ t, exec (.andReg x y) s = .next t ∧ t.reg x = (s.reg x &&& s.reg y) ∧ t.pc = s.pc + 2 ∧
      KeepsRegsBut [x] s t ∧ KeepsAllBut [.v, .pc] s t) ∧
    (∃ t, exec (.xorReg x y) s = .next t ∧ t.reg x = (s.reg x ^^^ s.reg y) ∧ t.pc = s.pc + 2 ∧
      KeepsRegsBut [x] s t ∧ KeepsAllBut [.v, .pc] s t)

/-- R170, R161 (D4): ADD of two registers, modulo 256; VF is the carry, also when it is the
destination. -/
def Obligations.AddRegistersSetsCarry : Prop :=
  ∀ (x y : Reg) (s : State), ∃ t, exec (.addReg x y) s = .next t ∧
    t.reg VF = (if 255 < (s.reg x).toNat + (s.reg y).toNat then 0x01 else 0x00) ∧
    (x ≠ VF → (t.reg x).toNat = ((s.reg x).toNat + (s.reg y).toNat) % 256) ∧
    t.pc = s.pc + 2 ∧ KeepsRegsBut [x, VF] s t ∧ KeepsAllBut [.v, .pc] s t

/-- R171, R173 (G6), R161 (D4): SUB and SUBN modulo 256; VF is 1 when there is no borrow, also when it
is the destination. -/
def Obligations.SubtractsSetNoBorrow : Prop :=
  ∀ (x y : Reg) (s : State),
    (∃ t, exec (.subReg x y) s = .next t ∧
      t.reg VF = (if (s.reg y).toNat ≤ (s.reg x).toNat then 0x01 else 0x00) ∧
      (x ≠ VF → (t.reg x).toNat = ((s.reg x).toNat + 256 - (s.reg y).toNat) % 256) ∧
      t.pc = s.pc + 2 ∧ KeepsRegsBut [x, VF] s t ∧ KeepsAllBut [.v, .pc] s t) ∧
    (∃ t, exec (.subnReg x y) s = .next t ∧
      t.reg VF = (if (s.reg x).toNat ≤ (s.reg y).toNat then 0x01 else 0x00) ∧
      (x ≠ VF → (t.reg x).toNat = ((s.reg y).toNat + 256 - (s.reg x).toNat) % 256) ∧
      t.pc = s.pc + 2 ∧ KeepsRegsBut [x, VF] s t ∧ KeepsAllBut [.v, .pc] s t)

/-- R172, R174, R169 (D5), R161 (D4): SHR and SHL shift `VX` by one, whatever Y is; VF is the bit
shifted out, also when it is the destination. -/
def Obligations.ShiftsSetShiftedOutBit : Prop :=
  ∀ (x y : Reg) (s : State),
    (∃ t, exec (.shr x y) s = .next t ∧ (t.reg VF).toNat = (s.reg x).toNat % 2 ∧
      (x ≠ VF → (t.reg x).toNat = (s.reg x).toNat / 2) ∧
      t.pc = s.pc + 2 ∧ KeepsRegsBut [x, VF] s t ∧ KeepsAllBut [.v, .pc] s t) ∧
    (∃ t, exec (.shl x y) s = .next t ∧ (t.reg VF).toNat = (s.reg x).toNat / 128 ∧
      (x ≠ VF → (t.reg x).toNat = (s.reg x).toNat * 2 % 256) ∧
      t.pc = s.pc + 2 ∧ KeepsRegsBut [x, VF] s t ∧ KeepsAllBut [.v, .pc] s t)

/-- R175: RND writes the random byte of the Cycle masked by NN, whatever byte that is: the `rnd` of the
event when the schedule names one, else a free value. `draws` is the model's own count. -/
def Obligations.RandomByteIsMasked : Prop :=
  ∀ (x : Reg) (nn : Byte) (s : State), ∃ t b, exec (.rnd x nn) s = .next t ∧
    (∀ r, s.rnd = some r → b = r) ∧ t.reg x = (b &&& nn) ∧ t.pc = s.pc + 2 ∧
    KeepsRegsBut [x] s t ∧ KeepsAllBut [.v, .pc, .draws] s t

/-! ### Index register and memory (43_index_memory.md) -/

/-- R181, R183: `I` becomes NNN, or the address of the glyph of the low nibble of `VX`. -/
def Obligations.IndexLoads : Prop :=
  (∀ (nnn : Addr12) (s : State), ∃ t, exec (.ldI nnn) s = .next t ∧ t.i.toNat = nnn.toNat ∧
    t.pc = s.pc + 2 ∧ KeepsAllBut [.i, .pc] s t) ∧
  (∀ (x : Reg) (s : State), ∃ t, exec (.ldF x) s = .next t ∧ t.i.toNat = 5 * ((s.reg x).toNat % 16) ∧
    t.pc = s.pc + 2 ∧ KeepsAllBut [.i, .pc] s t)

/-- R182 (D7): ADD I adds modulo 65536 and sets VF by the untruncated sum. -/
def Obligations.AddToIndexSetsFlag : Prop :=
  ∀ (x : Reg) (s : State), ∃ t, exec (.addI x) s = .next t ∧
    t.i.toNat = (s.i.toNat + (s.reg x).toNat) % 65536 ∧
    t.reg VF = (if 0x0FFF < s.i.toNat + (s.reg x).toNat then 0x01 else 0x00) ∧
    t.pc = s.pc + 2 ∧ KeepsRegsBut [VF] s t ∧ KeepsAllBut [.i, .v, .pc] s t

/-- R184: LD B stores the three decimal digits at `I`, `I + 1`, `I + 2` and no other byte, or raises
MemoryFault(max(I, 0x1000)) and stores none. -/
def Obligations.BcdStoresThreeDigits : Prop :=
  ∀ (x : Reg) (s : State),
    (s.i.toNat + 2 ≤ 0xFFF → ∃ t, exec (.ldB x) s = .next t ∧
      (readByte t.mem (dataAddress s.i 0)).toNat = (s.reg x).toNat / 100 ∧
      (readByte t.mem (dataAddress s.i 1)).toNat = (s.reg x).toNat / 10 % 10 ∧
      (readByte t.mem (dataAddress s.i 2)).toNat = (s.reg x).toNat % 10 ∧
      (∀ a, a < dataAddress s.i 0 ∨ dataAddress s.i 0 + 3 ≤ a →
        readByte t.mem a = readByte s.mem a) ∧
      t.pc = s.pc + 2 ∧ KeepsAllBut [.mem, .pc] s t) ∧
    (0xFFF < s.i.toNat + 2 → ∃ t, exec (.ldB x) s = .next t ∧
      Raises s t .memoryFault (firstOutside s.i))

/-- R185 (D8, D11): FX55 stores all sixteen registers, whatever X is, from `I` upward and no other byte,
or raises and stores none; `I` is unchanged. -/
def Obligations.DumpStoresAllRegisters : Prop :=
  ∀ (x : Reg) (s : State),
    (s.i.toNat + 15 ≤ 0xFFF → ∃ t, exec (.dumpRegs x) s = .next t ∧
      (∀ r : Reg, readByte t.mem (dataAddress s.i r.val) = s.reg r) ∧
      (∀ a, a < dataAddress s.i 0 ∨ dataAddress s.i 0 + 16 ≤ a →
        readByte t.mem a = readByte s.mem a) ∧
      t.pc = s.pc + 2 ∧ KeepsAllBut [.mem, .pc] s t) ∧
    (0xFFF < s.i.toNat + 15 → ∃ t, exec (.dumpRegs x) s = .next t ∧
      Raises s t .memoryFault (firstOutside s.i))

/-- R186 (D8, D11): FX65 loads all sixteen registers, VF included, whatever X is, or raises and loads
none; `I` and memory are unchanged. -/
def Obligations.LoadFillsAllRegisters : Prop :=
  ∀ (x : Reg) (s : State),
    (s.i.toNat + 15 ≤ 0xFFF → ∃ t, exec (.loadRegs x) s = .next t ∧
      (∀ r : Reg, t.reg r = readByte s.mem (dataAddress s.i r.val)) ∧
      t.pc = s.pc + 2 ∧ KeepsAllBut [.v, .pc] s t) ∧
    (0xFFF < s.i.toNat + 15 → ∃ t, exec (.loadRegs x) s = .next t ∧
      Raises s t .memoryFault (firstOutside s.i))

/-! ### Keypad and timers (44_keypad_timers.md) -/

/-- R190 (D10), R191, R192: SKP and SKNP test the key numbered by the low 4 bits of `VX`. -/
def Obligations.KeySkipsTestLowNibble : Prop :=
  ∀ (x : Reg) (s : State) (down : Bool), s.keys[(s.reg x).toNat % 16]? = some down →
    (∃ t, exec (.skp x) s = .next t ∧ KeepsAllBut [.pc] s t ∧
      t.pc = if down = true then s.pc + 4 else s.pc + 2) ∧
    (∃ t, exec (.sknp x) s = .next t ∧ KeepsAllBut [.pc] s t ∧
      t.pc = if down = false then s.pc + 4 else s.pc + 2)

/-- R193, R195: FX07 copies the live `DT` to `VX`, FX15 copies `VX` to `DT`; the next Tick decrements the
new value. -/
def Obligations.DelayTimerMoves : Prop :=
  ∀ (x : Reg) (s : State),
    (∃ t, exec (.ldVxDt x) s = .next t ∧ t.reg x = s.dt ∧ t.pc = s.pc + 2 ∧
      KeepsRegsBut [x] s t ∧ KeepsAllBut [.v, .pc] s t) ∧
    (∃ t, exec (.ldDtVx x) s = .next t ∧ t.dt = s.reg x ∧ t.pc = s.pc + 2 ∧
      KeepsAllBut [.dt, .pc] s t ∧
      (∀ es, t.inputs = .tick :: es →
        ∃ u, step t = .next u ∧ u.dt.toNat = (s.reg x).toNat - 1))

/-- R196: FX18 copies `VX` to `ST`; the sound output follows at once. -/
def Obligations.SoundTimerWrite : Prop :=
  ∀ (x : Reg) (s : State), ∃ t, exec (.ldStVx x) s = .next t ∧ t.st = s.reg x ∧ t.pc = s.pc + 2 ∧
    (t.soundActive = true ↔ 0 < (s.reg x).toNat) ∧ KeepsAllBut [.st, .pc] s t

/-- R194: FX0A enters the blocking-wait for `VX` and moves past itself; it writes no V register. -/
def Obligations.AwaitKeyEntersWait : Prop :=
  ∀ (x : Reg) (s : State), ∃ t, exec (.ldVxK x) s = .next t ∧ t.wait = true ∧ t.waitReg = x ∧
    t.pc = s.pc + 2 ∧ KeepsAllBut [.wait, .waitReg, .pc] s t

/-- R124, R129, R221, R230 (D9; S7 of 95_test_vectors.md): through any events but a press and Reset the
blocking-wait stands, with `PC` and the V registers still; the press of key k then ends it, and only
the awaited register changes, to k. -/
def Obligations.WaitEndsAtKeyPress : Prop :=
  ∀ (s : State) (es rest : List Event) (k : Nat), s.wait = true → s.fault = none → k < 16 →
    s.inputs = es ++ .setKey k true :: rest → (∀ e ∈ es, e.keepsWait = true) →
    ∃ t u, Sys2Proof.core.run es.length s = .next t ∧ t.wait = true ∧ t.pc = s.pc ∧ t.v = s.v ∧
      Sys2Proof.core.run (es.length + 1) s = .next u ∧ u.wait = false ∧ u.pc = s.pc ∧
      (u.reg s.waitReg).toNat = k ∧ KeepsRegsBut [s.waitReg] s u ∧ u.inputs = rest

/-! ### Display (45_display.md) -/

/-- R201: CLS turns every pixel off and sets `DIRTY`, whatever they were; VF is not written. -/
def Obligations.ClearBlanksFrame : Prop :=
  ∀ s : State, ∃ t, exec .cls s = .next t ∧ (∀ x y, pixel t.fb x y = false) ∧ t.dirty = true ∧
    t.pc = s.pc + 2 ∧ KeepsAllBut [.fb, .dirty, .pc] s t

/-- R202: DRW toggles exactly the pixels its wrapped sprite sets, VF says whether one of them was on,
`DIRTY` is set; out of range it raises MemoryFault(max(I, 0x1000)) and draws nothing; N = 0 never
raises. Which pixels those are rests on bit 7 - c being column c (R200), general knowledge G4 adopted by
decision D16 (log entry 19); the check of the whole range first and the info are decision D11 (log
entry 18). -/
def Obligations.DrawTogglesSpritePixels : Prop :=
  ∀ (x y : Reg) (n : Nibble) (s : State),
    (n = 0 ∨ s.i.toNat + n.toNat - 1 ≤ 0xFFF → ∃ t, exec (.drw x y n) s = .next t ∧
      (∀ px py, SpriteSets s x y n px py → pixel t.fb px py = !pixel s.fb px py) ∧
      (∀ px py, ¬ SpriteSets s x y n px py → pixel t.fb px py = pixel s.fb px py) ∧
      ((∃ px py, SpriteSets s x y n px py ∧ pixel s.fb px py = true) → t.reg VF = 0x01) ∧
      ((∀ px py, SpriteSets s x y n px py → pixel s.fb px py = false) → t.reg VF = 0x00) ∧
      t.dirty = true ∧ t.pc = s.pc + 2 ∧ KeepsRegsBut [VF] s t ∧
      KeepsAllBut [.fb, .dirty, .v, .pc] s t) ∧
    (n ≠ 0 ∧ 0xFFF < s.i.toNat + n.toNat - 1 → ∃ t, exec (.drw x y n) s = .next t ∧
      Raises s t .memoryFault (firstOutside s.i))

/-- R203: the same sprite drawn again at the same position gives the framebuffer back, and the second
draw collides exactly when the first turned a pixel on. -/
def Obligations.DoubleDrawRestoresFrame : Prop :=
  ∀ (x y : Reg) (n : Nibble) (s : State), n = 0 ∨ s.i.toNat + n.toNat - 1 ≤ 0xFFF →
    ∃ t, exec (.drw x y n) s = .next t ∧
      ∀ s' : State, s'.fb = t.fb → s'.i = s.i →
        (∀ r, r < n.toNat → readByte s'.mem (dataAddress s.i r) = readByte s.mem (dataAddress s.i r)) →
        (s'.reg x).toNat % 64 = (s.reg x).toNat % 64 → (s'.reg y).toNat % 32 = (s.reg y).toNat % 32 →
        ∃ t', exec (.drw x y n) s' = .next t' ∧ t'.fb = s.fb ∧
          (t'.reg VF = 0x01 ↔ ∃ px py, pixel s.fb px py = false ∧ pixel t.fb px py = true)

/-! ### Rules about all instructions and all states -/

/-- R24: where every instruction leaves `PC`; a faulting one leaves it at itself, and during the wait of
FX0A it stands through every event but Reset. -/
def Obligations.PcAfterEveryInstruction : Prop :=
  (∀ (i : Instr) (s : State), s.fault = none → ∃ t, exec i s = .next t ∧
    (t.fault = none → t.pc = listedPc s i) ∧ (t.fault ≠ none → t.pc = s.pc) ∧
    (∀ x, i = .ldVxK x → t.wait = true)) ∧
  (∀ s : State, s.wait = true → (∀ es, s.inputs ≠ .reset :: es) → ∃ t, step s = .next t ∧ t.pc = s.pc)

/-- R21, R30 to R37, R41, R42, R69: every instruction answers a next state in which the parts it does
not write are unchanged: only CALL and RET touch the stack, only FX33 and FX55 memory, only CLS and DRW
the framebuffer and `DIRTY`, no instruction a key, and so on. -/
def Obligations.InstructionsWriteOnlyTheirParts : Prop :=
  ∀ (i : Instr) (s : State), ∃ t, exec i s = .next t ∧ KeepsAllBut (mayWrite i) s t

/-- R28 (D6, D7): an instruction that changes VF writes it as a flag or names it as its destination; a
flag write leaves 0x00 or 0x01 (R27). -/
def Obligations.OnlyListedInstructionsChangeVf : Prop :=
  ∀ (i : Instr) (s t : State), exec i s = .next t →
    (t.reg VF ≠ s.reg VF → writesFlag i = true ∨ namesVf i = true) ∧
    (writesFlag i = true → s.fault = none → t.fault = none → t.reg VF = 0x00 ∨ t.reg VF = 0x01)

/-- R213, R231 (D11, D12): an instruction that raises changes nothing but `FAULT`, and raises only what
the list of R231 gives it, on the condition of its own check. -/
def Obligations.FaultsArePreciseAndListed : Prop :=
  ∀ (i : Instr) (s t : State) (f : FaultRecord), s.fault = none → exec i s = .next t →
    t.fault = some f → KeepsAllBut [.fault] s t ∧ MayRaise s i f

/-- R121 (D17): only CXNN reads the random byte: any other instruction does the same whatever it is. -/
def Obligations.OnlyRndReadsTheRandomByte : Prop :=
  ∀ (i : Instr) (s t : State) (r : Option Byte) (d : Nat), (∀ x nn, i ≠ .rnd x nn) →
    exec i s = .next t →
    exec i { s with rnd := r, draws := d } = .next { t with rnd := r, draws := d }

/-- R33, R39: what the stack slots at `SP` and above hold, and what `WAIT_REG` holds while `WAIT = 0`,
cannot be observed: states that agree elsewhere step to states that agree elsewhere. -/
def Obligations.DeadSlotsAreUnobservable : Prop :=
  ∀ s t : State, AgreeLive s t → ∃ s' t', step s = .next s' ∧ step t = .next t' ∧ AgreeLive s' t'

/-- R46: one step, whatever event it is, keeps the invariant, from every state that meets it. -/
def Obligations.StepKeepsInvariant : Prop :=
  ∀ s t : State, s.Inv → step s = .next t → t.Inv

/-- R216 (D12): a fault stands, and with it everything a program can change, through every run of events
that holds no Reset; memory too, if none is a Load. -/
def Obligations.FaultStandsUntilReset : Prop :=
  ∀ (n : Nat) (s : State), s.fault ≠ none → s.wait = false → (∀ e ∈ s.inputs.take n, e ≠ .reset) →
    ∃ t, Sys2Proof.core.run n s = .next t ∧
      KeepsAllBut [.dt, .st, .keys, .dirty, .mem, .inputs, .reply] s t ∧
      ((∀ e ∈ s.inputs.take n, ∀ bytes, e ≠ .load bytes) → t.mem = s.mem)

/-- R212, R222, R231: no state stops the machine: every step answers a next state. -/
def Obligations.EveryStepAnswersNext : Prop := ∀ s : State, ∃ t, step s = .next t

/-- R246 (a) (D27): a jump to itself is a fixed point of every run of Cycles. -/
def Obligations.JumpToSelfSpins : Prop :=
  ∀ (n : Nat) (s : State), s.Spinning → s.inputs = [] → s.rnd = none →
    Sys2Proof.core.run n s = .next s

/-- R75 (D23): a store over the next instruction is seen by the very next fetch: after FX55 at `PC` with
`I = PC + 2`, the next fetch reads V0 and V1. -/
def Obligations.StoreIsSeenByNextFetch : Prop :=
  ∀ (s : State) (x : Reg), s.fault = none → s.wait = false → NextIsCycle s →
    fetchWord s = some (formatXNN 0xF x 0x55) → s.i = s.pc + 2 → s.i.toNat + 15 ≤ 0xFFF →
    ∃ t, step s = .next t ∧ fetchWord t = some (wordOfBytes (s.reg 0) (s.reg 1))

/-- R246 (c) (D27), R124, R230: a block that waits with no press to come hangs: however many events pass,
none of them a Reset, it still waits, with `PC` and the V registers still. -/
def Obligations.WaitWithoutPressHangs : Prop :=
  ∀ (n : Nat) (s : State), s.Blocked → Event.reset ∉ s.inputs →
    ∃ t, Sys2Proof.core.run n s = .next t ∧ t.Blocked ∧ t.pc = s.pc ∧ t.v = s.v
end

