-- ==== Sys2Proof/Laws/Decode.lean ====
section
/-! SUPPORT. The fields of a word built by a format are the operands it was built from, and a word is
built from its fields (R91, R102). -/

namespace Sys2Proof

/-! ### The number a word is, by its fields -/

theorem toNat_fieldT (op : Word) : (fieldT op).toNat = op.toNat / 4096 := by
  have := op.isLt
  simp only [fieldT, BitVec.extractLsb'_toNat, Nat.shiftRight_eq_div_pow]
  omega

theorem val_fieldX (op : Word) : (fieldX op).val = op.toNat / 256 % 16 := by
  show (op.extractLsb' 8 4).toNat = _
  simp only [BitVec.extractLsb'_toNat, Nat.shiftRight_eq_div_pow]

theorem val_fieldY (op : Word) : (fieldY op).val = op.toNat / 16 % 16 := by
  show (op.extractLsb' 4 4).toNat = _
  simp only [BitVec.extractLsb'_toNat, Nat.shiftRight_eq_div_pow]

theorem toNat_fieldN (op : Word) : (fieldN op).toNat = op.toNat % 16 := by
  simp [fieldN]

theorem toNat_fieldNN (op : Word) : (fieldNN op).toNat = op.toNat % 256 := by
  simp [fieldNN]

theorem toNat_fieldNNN (op : Word) : (fieldNNN op).toNat = op.toNat % 4096 := by
  simp [fieldNNN]

theorem toNat_nibbleOfReg (x : Reg) : (nibbleOfReg x).toNat = x.val := rfl

theorem toNat_append_eq {n m : Nat} (a : BitVec n) (b : BitVec m) :
    (a ++ b).toNat = a.toNat * 2 ^ m + b.toNat := by
  rw [BitVec.toNat_append, Nat.shiftLeft_eq, Nat.mul_comm, Nat.two_pow_add_eq_or_of_lt b.isLt]

theorem toNat_formatNNN (t : Nibble) (nnn : Addr12) :
    (formatNNN t nnn).toNat = t.toNat * 4096 + nnn.toNat := toNat_append_eq t nnn

theorem toNat_formatXNN (t : Nibble) (x : Reg) (low : Byte) :
    (formatXNN t x low).toNat = t.toNat * 4096 + x.val * 256 + low.toNat := by
  have h : (formatXNN t x low).toNat = ((t ++ nibbleOfReg x).toNat) * 2 ^ 8 + low.toNat :=
    toNat_append_eq (t ++ nibbleOfReg x) low
  rw [h, toNat_append_eq, toNat_nibbleOfReg]
  omega

theorem toNat_formatXYN (t : Nibble) (x y : Reg) (low : Nibble) :
    (formatXYN t x y low).toNat = t.toNat * 4096 + x.val * 256 + y.val * 16 + low.toNat := by
  have h : (formatXYN t x y low).toNat =
      ((t ++ nibbleOfReg x ++ nibbleOfReg y).toNat) * 2 ^ 4 + low.toNat :=
    toNat_append_eq (t ++ nibbleOfReg x ++ nibbleOfReg y) low
  rw [h, toNat_append_eq, toNat_append_eq, toNat_nibbleOfReg, toNat_nibbleOfReg]
  omega

/-! ### Fields of a formatted word -/

@[simp] theorem fieldT_formatNNN (t : Nibble) (nnn : Addr12) : fieldT (formatNNN t nnn) = t := by
  apply BitVec.eq_of_toNat_eq
  have := nnn.isLt
  rw [toNat_fieldT, toNat_formatNNN]
  omega

@[simp] theorem fieldNNN_formatNNN (t : Nibble) (nnn : Addr12) :
    fieldNNN (formatNNN t nnn) = nnn := by
  apply BitVec.eq_of_toNat_eq
  have := nnn.isLt
  rw [toNat_fieldNNN, toNat_formatNNN]
  omega

@[simp] theorem fieldT_formatXNN (t : Nibble) (x : Reg) (low : Byte) :
    fieldT (formatXNN t x low) = t := by
  apply BitVec.eq_of_toNat_eq
  have := x.isLt
  have := low.isLt
  rw [toNat_fieldT, toNat_formatXNN]
  omega

@[simp] theorem fieldX_formatXNN (t : Nibble) (x : Reg) (low : Byte) :
    fieldX (formatXNN t x low) = x := by
  apply Fin.ext
  have := x.isLt
  have := low.isLt
  rw [val_fieldX, toNat_formatXNN]
  omega

@[simp] theorem fieldNN_formatXNN (t : Nibble) (x : Reg) (low : Byte) :
    fieldNN (formatXNN t x low) = low := by
  apply BitVec.eq_of_toNat_eq
  have := low.isLt
  rw [toNat_fieldNN, toNat_formatXNN]
  omega

@[simp] theorem fieldT_formatXYN (t : Nibble) (x y : Reg) (low : Nibble) :
    fieldT (formatXYN t x y low) = t := by
  apply BitVec.eq_of_toNat_eq
  have := x.isLt
  have := y.isLt
  have := low.isLt
  rw [toNat_fieldT, toNat_formatXYN]
  omega

@[simp] theorem fieldX_formatXYN (t : Nibble) (x y : Reg) (low : Nibble) :
    fieldX (formatXYN t x y low) = x := by
  apply Fin.ext
  have := x.isLt
  have := y.isLt
  have := low.isLt
  rw [val_fieldX, toNat_formatXYN]
  omega

@[simp] theorem fieldY_formatXYN (t : Nibble) (x y : Reg) (low : Nibble) :
    fieldY (formatXYN t x y low) = y := by
  apply Fin.ext
  have := y.isLt
  have := low.isLt
  rw [val_fieldY, toNat_formatXYN]
  omega

@[simp] theorem fieldN_formatXYN (t : Nibble) (x y : Reg) (low : Nibble) :
    fieldN (formatXYN t x y low) = low := by
  apply BitVec.eq_of_toNat_eq
  have := low.isLt
  rw [toNat_fieldN, toNat_formatXYN]
  omega

/-! ### A word from its fields -/

theorem formatNNN_fields (op : Word) : formatNNN (fieldT op) (fieldNNN op) = op := by
  apply BitVec.eq_of_toNat_eq
  rw [toNat_formatNNN, toNat_fieldT, toNat_fieldNNN]
  omega

theorem formatXNN_fields (op : Word) : formatXNN (fieldT op) (fieldX op) (fieldNN op) = op := by
  apply BitVec.eq_of_toNat_eq
  have := op.isLt
  rw [toNat_formatXNN, toNat_fieldT, val_fieldX, toNat_fieldNN]
  omega

theorem formatXYN_fields (op : Word) :
    formatXYN (fieldT op) (fieldX op) (fieldY op) (fieldN op) = op := by
  apply BitVec.eq_of_toNat_eq
  have := op.isLt
  rw [toNat_formatXYN, toNat_fieldT, val_fieldX, val_fieldY, toNat_fieldN]
  omega

/-! ### Decoding, by the top nibble (R95) -/

section
variable {op : Word}

theorem decode_T0 (h : fieldT op = 0x0) : decode op = decode0 op := by
  simp only [decode, h]
  rfl

theorem decode_T1 (h : fieldT op = 0x1) : decode op = .instr (.jp (fieldNNN op)) := by
  simp only [decode, h]
  rfl

theorem decode_T2 (h : fieldT op = 0x2) : decode op = .instr (.call (fieldNNN op)) := by
  simp only [decode, h]
  rfl

theorem decode_T3 (h : fieldT op = 0x3) : decode op = .instr (.seImm (fieldX op) (fieldNN op)) := by
  simp only [decode, h]
  rfl

theorem decode_T4 (h : fieldT op = 0x4) : decode op = .instr (.sneImm (fieldX op) (fieldNN op)) := by
  simp only [decode, h]
  rfl

theorem decode_T5 (h : fieldT op = 0x5) : decode op = decodeLowNibbleZero op (.seReg (fieldX op) (fieldY op)) := by
  simp only [decode, h]
  rfl

theorem decode_T6 (h : fieldT op = 0x6) : decode op = .instr (.ldImm (fieldX op) (fieldNN op)) := by
  simp only [decode, h]
  rfl

theorem decode_T7 (h : fieldT op = 0x7) : decode op = .instr (.addImm (fieldX op) (fieldNN op)) := by
  simp only [decode, h]
  rfl

theorem decode_T8 (h : fieldT op = 0x8) : decode op = decode8 op := by
  simp only [decode, h]
  rfl

theorem decode_T9 (h : fieldT op = 0x9) : decode op = decodeLowNibbleZero op (.sneReg (fieldX op) (fieldY op)) := by
  simp only [decode, h]
  rfl

theorem decode_TA (h : fieldT op = 0xA) : decode op = .instr (.ldI (fieldNNN op)) := by
  simp only [decode, h]
  rfl

theorem decode_TB (h : fieldT op = 0xB) : decode op = .instr (.jpV0 (fieldNNN op)) := by
  simp only [decode, h]
  rfl

theorem decode_TC (h : fieldT op = 0xC) : decode op = .instr (.rnd (fieldX op) (fieldNN op)) := by
  simp only [decode, h]
  rfl

theorem decode_TD (h : fieldT op = 0xD) : decode op = .instr (.drw (fieldX op) (fieldY op) (fieldN op)) := by
  simp only [decode, h]
  rfl

theorem decode_TE (h : fieldT op = 0xE) : decode op = decodeE op := by
  simp only [decode, h]
  rfl

theorem decode_TF (h : fieldT op = 0xF) : decode op = decodeF op := by
  simp only [decode, h]
  rfl

/-- The decoder's error names the word it was given. -/
theorem decodeError_eq {bad : Word} (h : decode op = .decodeError bad) : bad = op := by
  revert h
  unfold decode decode0 decodeLowNibbleZero decode8 decodeE decodeF
  split <;> (try split) <;> (try split) <;> simp <;> intros <;> simp_all

/-- Decoding with a strict low nibble (R96): the instruction, with a low nibble of 0, or the error. -/
theorem decodeLowNibbleZero_eq (i : Instr) :
    decodeLowNibbleZero op i = if fieldN op = 0 then .instr i else .decodeError op := by
  by_cases h : fieldN op = 0 <;> simp [decodeLowNibbleZero, Config.strictLowNibble, h]

end

/-! ### Bytes -/

theorem wordOfBytes_bytesOfWord (op : Word) :
    wordOfBytes (op.extractLsb' 8 8) (op.extractLsb' 0 8) = op := by
  apply BitVec.eq_of_toNat_eq
  have := op.isLt
  rw [wordOfBytes, toNat_append_eq]
  simp only [BitVec.extractLsb'_toNat, Nat.shiftRight_eq_div_pow]
  omega

@[simp] theorem decodeBytes_bytesOfWord (op : Word) :
    decodeBytes (bytesOfWord op) = .word (decode op) := by
  simp only [bytesOfWord, decodeBytes, wordOfBytes_bytesOfWord]

end Sys2Proof
end

