-- ==== Sys2Proof/Laws/Memory.lean ====
section
/-! SUPPORT. The laws of memory: a read after a write, the canonical form kept by every memory
operation, and equal readings of canonical memories being equal memories. -/

namespace Sys2Proof.Machine

@[simp] theorem readByte_nil (a : Nat) : readByte [] a = initialByte a := rfl

theorem readByte_cons (k : Nat) (b : Byte) (m : Memory) (a : Nat) :
    readByte ((k, b) :: m) a = if a = k then b else readByte m a := rfl

/-! ### One byte -/

theorem readByte_eraseCell (m : Memory) (a k : Nat) :
    readByte (eraseCell m a) k = if k = a then initialByte k else readByte m k := by
  induction m with
  | nil => simp [eraseCell]
  | cons c m ih =>
    obtain ⟨j, b⟩ := c
    have hstep : eraseCell ((j, b) :: m) a = if j = a then eraseCell m a else (j, b) :: eraseCell m a := by
      by_cases h : j = a <;> simp [eraseCell, h]
    rw [hstep, readByte_cons]
    by_cases hj : j = a
    · rw [if_pos hj, ih]
      by_cases hk : k = a
      · simp [hk]
      · rw [if_neg hk, if_neg hk, if_neg (by omega)]
    · rw [if_neg hj, readByte_cons, ih]
      by_cases hk : k = j
      · rw [if_pos hk, if_pos hk, if_neg (by omega)]
      · rw [if_neg hk, if_neg hk]

theorem readByte_insertCell (m : Memory) (a k : Nat) (b : Byte)
    (hm : ∀ c ∈ m, c.1 ≠ a) :
    readByte (insertCell m a b) k = if k = a then b else readByte m k := by
  induction m with
  | nil => simp [insertCell, readByte_cons]
  | cons c m ih =>
    obtain ⟨j, d⟩ := c
    have hj : j ≠ a := hm (j, d) (by simp)
    have hm' : ∀ c ∈ m, c.1 ≠ a := fun c hc => hm c (by simp [hc])
    by_cases h : a < j
    · simp [insertCell, h, readByte_cons]
    · simp only [insertCell, if_neg h, readByte_cons, ih hm']
      by_cases hk : k = j
      · rw [if_pos hk, if_pos hk, if_neg (by omega)]
      · rw [if_neg hk, if_neg hk]

theorem eraseCell_ne (m : Memory) (a : Nat) : ∀ c ∈ eraseCell m a, c.1 ≠ a := by
  intro c hc
  simpa [eraseCell] using (List.mem_filter.mp hc).2

/-- A read after a write: the written byte at its address, every other address as before. -/
@[simp] theorem readByte_writeByte (m : Memory) (a k : Nat) (b : Byte) :
    readByte (writeByte m a b) k = if k = a then b else readByte m k := by
  unfold writeByte
  split
  · rename_i hb
    rw [readByte_eraseCell]
    by_cases hk : k = a
    · rw [if_pos hk, if_pos hk, hk, hb]
    · rw [if_neg hk, if_neg hk]
  · rw [readByte_insertCell _ _ _ _ (eraseCell_ne m a), readByte_eraseCell]
    by_cases hk : k = a <;> simp [hk]

/-! ### Several bytes -/

/-- A read after a write of several bytes: byte j of the list at `a + j`, every address outside as
before. -/
theorem readByte_writeBytes (bs : List Byte) (m : Memory) (a k : Nat) :
    readByte (writeBytes m a bs) k =
      if h : a ≤ k ∧ k - a < bs.length then bs[k - a]'h.2 else readByte m k := by
  induction bs generalizing m a with
  | nil => simp [writeBytes]
  | cons b bs ih =>
    rw [writeBytes, ih]
    by_cases hk : k = a
    · subst hk
      rw [dif_neg (by omega), readByte_writeByte, if_pos rfl, dif_pos (by simp)]
      simp
    · by_cases hin : a + 1 ≤ k ∧ k - (a + 1) < bs.length
      · rw [dif_pos hin, dif_pos ⟨by omega, by simp only [List.length_cons]; omega⟩]
        have : k - a = (k - (a + 1)) + 1 := by omega
        simp [this]
      · rw [dif_neg hin, readByte_writeByte, if_neg hk, dif_neg]
        simp only [List.length_cons]
        omega

theorem readByte_writeBytes_outside (bs : List Byte) (m : Memory) (a k : Nat)
    (h : k < a ∨ a + bs.length ≤ k) : readByte (writeBytes m a bs) k = readByte m k := by
  rw [readByte_writeBytes, dif_neg (by omega)]

theorem readByte_writeBytes_inside (bs : List Byte) (m : Memory) (a j : Nat) (h : j < bs.length) :
    readByte (writeBytes m a bs) (a + j) = bs[j] := by
  rw [readByte_writeBytes, dif_pos ⟨by omega, by omega⟩]
  simp

@[simp] theorem length_readBytes (m : Memory) (n a : Nat) : (readBytes m a n).length = n := by
  induction n generalizing a with
  | zero => rfl
  | succ n ih => simp [readBytes, ih]

theorem getElem_readBytes (m : Memory) (n a j : Nat) (h : j < (readBytes m a n).length) :
    (readBytes m a n)[j] = readByte m (a + j) := by
  induction n generalizing a j with
  | zero => simp [readBytes] at h
  | succ n ih =>
    cases j with
    | zero => simp [readBytes]
    | succ j => simp [readBytes, ih, Nat.add_comm, Nat.add_left_comm]

theorem readBytes_congr {m m' : Memory} (h : ∀ a, readByte m a = readByte m' a) (n a : Nat) :
    readBytes m a n = readBytes m' a n := by
  induction n generalizing a with
  | zero => rfl
  | succ n ih => simp [readBytes, h, ih]

/-! ### The canonical form -/

theorem Memory.wf_nil : Memory.wf [] := by simp [Memory.wf]

theorem Memory.wf_eraseCell {m : Memory} (h : m.wf) (a : Nat) : Memory.wf (eraseCell m a) := by
  refine ⟨h.1.filter _, fun c hc => h.2 c ?_⟩
  exact (List.mem_filter.mp hc).1

theorem mem_insertCell (m : Memory) (a : Nat) (b : Byte) (c : Host.Cell) :
    c ∈ insertCell m a b ↔ c = (a, b) ∨ c ∈ m := by
  induction m with
  | nil => simp [insertCell]
  | cons d m ih =>
    obtain ⟨j, e⟩ := d
    by_cases h : a < j
    · simp [insertCell, h]
    · simp only [insertCell, if_neg h, List.mem_cons, ih]
      tauto

theorem pairwise_insertCell (m : Memory) (a : Nat) (b : Byte)
    (h : m.Pairwise (fun p q => p.1 < q.1)) (ha : ∀ c ∈ m, c.1 ≠ a) :
    (insertCell m a b).Pairwise (fun p q => p.1 < q.1) := by
  induction m with
  | nil => simp [insertCell]
  | cons d m ih =>
    obtain ⟨j, e⟩ := d
    have hj : j ≠ a := ha (j, e) (by simp)
    have hm := List.pairwise_cons.mp h
    by_cases hlt : a < j
    · simp only [insertCell, if_pos hlt]
      refine List.pairwise_cons.mpr ⟨fun c hc => ?_, h⟩
      rcases List.mem_cons.mp hc with rfl | hc
      · exact hlt
      · exact Nat.lt_trans hlt (hm.1 c hc)
    · simp only [insertCell, if_neg hlt]
      refine List.pairwise_cons.mpr ⟨fun c hc => ?_, ih hm.2 (fun c hc => ha c (by simp [hc]))⟩
      rcases (mem_insertCell m a b c).mp hc with rfl | hc
      · show j < a
        omega
      · exact hm.1 c hc

theorem Memory.wf_writeByte {m : Memory} (h : m.wf) {a : Nat} (ha : a < Config.memSize) (b : Byte) :
    Memory.wf (writeByte m a b) := by
  unfold writeByte
  split
  · exact Memory.wf_eraseCell h a
  · rename_i hb
    have he := Memory.wf_eraseCell h a
    refine ⟨pairwise_insertCell _ a b he.1 (eraseCell_ne m a), fun c hc => ?_⟩
    rcases (mem_insertCell _ a b c).mp hc with rfl | hc
    · exact ⟨ha, hb⟩
    · exact he.2 c hc

theorem Memory.wf_writeBytes {m : Memory} (h : m.wf) (bs : List Byte) {a : Nat}
    (ha : a + bs.length ≤ Config.memSize) : Memory.wf (writeBytes m a bs) := by
  induction bs generalizing m a with
  | nil => exact h
  | cons b bs ih =>
    simp only [List.length_cons] at ha
    exact ih (Memory.wf_writeByte h (by omega) b) (by omega)

theorem Memory.readByte_of_lt {m : Memory} {a : Nat} (h : ∀ c ∈ m, a < c.1) :
    readByte m a = initialByte a := by
  induction m with
  | nil => rfl
  | cons c m ih =>
    obtain ⟨j, b⟩ := c
    have hj : a < j := h (j, b) (by simp)
    rw [readByte_cons, if_neg (by omega), ih (fun c hc => h c (by simp [hc]))]

/-- Equal memories are equal data: canonical memories that read alike are the same list. -/
theorem Memory.eq_of_readByte_eq {m m' : Memory} (h : m.wf) (h' : m'.wf)
    (heq : ∀ a, readByte m a = readByte m' a) : m = m' := by
  induction m generalizing m' with
  | nil =>
    cases m' with
    | nil => rfl
    | cons c m' =>
      obtain ⟨j, b⟩ := c
      have := heq j
      rw [readByte_nil, readByte_cons, if_pos rfl] at this
      exact absurd this.symm (h'.2 (j, b) (by simp)).2
  | cons c m ih =>
    obtain ⟨j, b⟩ := c
    have hp := List.pairwise_cons.mp h.1
    have hread : ∀ a, a ≤ j → readByte m a = initialByte a := fun a haj =>
      Memory.readByte_of_lt (fun c hc => Nat.lt_of_le_of_lt haj (hp.1 c hc))
    have hb := (h.2 (j, b) (by simp)).2
    cases m' with
    | nil =>
      have := heq j
      rw [readByte_nil, readByte_cons, if_pos rfl] at this
      exact absurd this hb
    | cons c' m' =>
      obtain ⟨j', b'⟩ := c'
      have hp' := List.pairwise_cons.mp h'.1
      have hread' : ∀ a, a ≤ j' → readByte m' a = initialByte a := fun a haj =>
        Memory.readByte_of_lt (fun c hc => Nat.lt_of_le_of_lt haj (hp'.1 c hc))
      have hb' := (h'.2 (j', b') (by simp)).2
      have hjj : j = j' := by
        rcases Nat.lt_trichotomy j j' with hlt | heq' | hgt
        · have := heq j
          rw [readByte_cons, if_pos rfl, readByte_cons, if_neg (by omega), hread' j (by omega)] at this
          exact absurd this hb
        · exact heq'
        · have := heq j'
          rw [readByte_cons, if_neg (by omega), hread j' (by omega), readByte_cons, if_pos rfl] at this
          exact absurd this.symm hb'
      subst hjj
      have hbb : b = b' := by simpa [readByte_cons] using heq j
      subst hbb
      have hm : m = m' := by
        refine ih ⟨hp.2, fun c hc => h.2 c (by simp [hc])⟩
          ⟨hp'.2, fun c hc => h'.2 c (by simp [hc])⟩ (fun a => ?_)
        by_cases ha : a = j
        · rw [ha, hread j (by omega), hread' j (by omega)]
        · simpa [readByte_cons, ha] using heq a
      rw [hm]

theorem State.reset_mem_wf : State.reset.mem.wf := Memory.wf_nil

end Sys2Proof.Machine
end

