-- ==== Sys2Proof/Laws/State.lean ====
section
/-! SUPPORT. What each state update leaves in each field, so that no later proof unfolds a record
update; and reading a register after writing one. -/

namespace Sys2Proof.Machine

variable (s : State)

/-! ### `State.setReg` -/

@[simp] theorem State.setReg_v (x : Reg) (b : Byte) : (s.setReg x b).v = s.v.set x.val b := rfl
@[simp] theorem State.setReg_i (x : Reg) (b : Byte) : (s.setReg x b).i = s.i := rfl
@[simp] theorem State.setReg_pc (x : Reg) (b : Byte) : (s.setReg x b).pc = s.pc := rfl
@[simp] theorem State.setReg_stack (x : Reg) (b : Byte) : (s.setReg x b).stack = s.stack := rfl
@[simp] theorem State.setReg_sp (x : Reg) (b : Byte) : (s.setReg x b).sp = s.sp := rfl
@[simp] theorem State.setReg_dt (x : Reg) (b : Byte) : (s.setReg x b).dt = s.dt := rfl
@[simp] theorem State.setReg_st (x : Reg) (b : Byte) : (s.setReg x b).st = s.st := rfl
@[simp] theorem State.setReg_keys (x : Reg) (b : Byte) : (s.setReg x b).keys = s.keys := rfl
@[simp] theorem State.setReg_wait (x : Reg) (b : Byte) : (s.setReg x b).wait = s.wait := rfl
@[simp] theorem State.setReg_waitReg (x : Reg) (b : Byte) : (s.setReg x b).waitReg = s.waitReg := rfl
@[simp] theorem State.setReg_fb (x : Reg) (b : Byte) : (s.setReg x b).fb = s.fb := rfl
@[simp] theorem State.setReg_dirty (x : Reg) (b : Byte) : (s.setReg x b).dirty = s.dirty := rfl
@[simp] theorem State.setReg_mem (x : Reg) (b : Byte) : (s.setReg x b).mem = s.mem := rfl
@[simp] theorem State.setReg_fault (x : Reg) (b : Byte) : (s.setReg x b).fault = s.fault := rfl
@[simp] theorem State.setReg_inputs (x : Reg) (b : Byte) : (s.setReg x b).inputs = s.inputs := rfl
@[simp] theorem State.setReg_reply (x : Reg) (b : Byte) : (s.setReg x b).reply = s.reply := rfl
@[simp] theorem State.setReg_rnd (x : Reg) (b : Byte) : (s.setReg x b).rnd = s.rnd := rfl
@[simp] theorem State.setReg_draws (x : Reg) (b : Byte) : (s.setReg x b).draws = s.draws := rfl

/-! ### `State.setFlag` -/

@[simp] theorem State.setFlag_i (f : Bool) : (s.setFlag f).i = s.i := rfl
@[simp] theorem State.setFlag_pc (f : Bool) : (s.setFlag f).pc = s.pc := rfl
@[simp] theorem State.setFlag_stack (f : Bool) : (s.setFlag f).stack = s.stack := rfl
@[simp] theorem State.setFlag_sp (f : Bool) : (s.setFlag f).sp = s.sp := rfl
@[simp] theorem State.setFlag_dt (f : Bool) : (s.setFlag f).dt = s.dt := rfl
@[simp] theorem State.setFlag_st (f : Bool) : (s.setFlag f).st = s.st := rfl
@[simp] theorem State.setFlag_keys (f : Bool) : (s.setFlag f).keys = s.keys := rfl
@[simp] theorem State.setFlag_wait (f : Bool) : (s.setFlag f).wait = s.wait := rfl
@[simp] theorem State.setFlag_waitReg (f : Bool) : (s.setFlag f).waitReg = s.waitReg := rfl
@[simp] theorem State.setFlag_fb (f : Bool) : (s.setFlag f).fb = s.fb := rfl
@[simp] theorem State.setFlag_dirty (f : Bool) : (s.setFlag f).dirty = s.dirty := rfl
@[simp] theorem State.setFlag_mem (f : Bool) : (s.setFlag f).mem = s.mem := rfl
@[simp] theorem State.setFlag_fault (f : Bool) : (s.setFlag f).fault = s.fault := rfl
@[simp] theorem State.setFlag_inputs (f : Bool) : (s.setFlag f).inputs = s.inputs := rfl
@[simp] theorem State.setFlag_reply (f : Bool) : (s.setFlag f).reply = s.reply := rfl
@[simp] theorem State.setFlag_rnd (f : Bool) : (s.setFlag f).rnd = s.rnd := rfl
@[simp] theorem State.setFlag_draws (f : Bool) : (s.setFlag f).draws = s.draws := rfl

/-! ### `State.setResultFlag` -/

@[simp] theorem State.setResultFlag_i (x : Reg) (b : Byte) (f : Bool) : (s.setResultFlag x b f).i = s.i := rfl
@[simp] theorem State.setResultFlag_pc (x : Reg) (b : Byte) (f : Bool) : (s.setResultFlag x b f).pc = s.pc := rfl
@[simp] theorem State.setResultFlag_stack (x : Reg) (b : Byte) (f : Bool) : (s.setResultFlag x b f).stack = s.stack := rfl
@[simp] theorem State.setResultFlag_sp (x : Reg) (b : Byte) (f : Bool) : (s.setResultFlag x b f).sp = s.sp := rfl
@[simp] theorem State.setResultFlag_dt (x : Reg) (b : Byte) (f : Bool) : (s.setResultFlag x b f).dt = s.dt := rfl
@[simp] theorem State.setResultFlag_st (x : Reg) (b : Byte) (f : Bool) : (s.setResultFlag x b f).st = s.st := rfl
@[simp] theorem State.setResultFlag_keys (x : Reg) (b : Byte) (f : Bool) : (s.setResultFlag x b f).keys = s.keys := rfl
@[simp] theorem State.setResultFlag_wait (x : Reg) (b : Byte) (f : Bool) : (s.setResultFlag x b f).wait = s.wait := rfl
@[simp] theorem State.setResultFlag_waitReg (x : Reg) (b : Byte) (f : Bool) : (s.setResultFlag x b f).waitReg = s.waitReg := rfl
@[simp] theorem State.setResultFlag_fb (x : Reg) (b : Byte) (f : Bool) : (s.setResultFlag x b f).fb = s.fb := rfl
@[simp] theorem State.setResultFlag_dirty (x : Reg) (b : Byte) (f : Bool) : (s.setResultFlag x b f).dirty = s.dirty := rfl
@[simp] theorem State.setResultFlag_mem (x : Reg) (b : Byte) (f : Bool) : (s.setResultFlag x b f).mem = s.mem := rfl
@[simp] theorem State.setResultFlag_fault (x : Reg) (b : Byte) (f : Bool) : (s.setResultFlag x b f).fault = s.fault := rfl
@[simp] theorem State.setResultFlag_inputs (x : Reg) (b : Byte) (f : Bool) : (s.setResultFlag x b f).inputs = s.inputs := rfl
@[simp] theorem State.setResultFlag_reply (x : Reg) (b : Byte) (f : Bool) : (s.setResultFlag x b f).reply = s.reply := rfl
@[simp] theorem State.setResultFlag_rnd (x : Reg) (b : Byte) (f : Bool) : (s.setResultFlag x b f).rnd = s.rnd := rfl
@[simp] theorem State.setResultFlag_draws (x : Reg) (b : Byte) (f : Bool) : (s.setResultFlag x b f).draws = s.draws := rfl

/-! ### `State.advance` -/

@[simp] theorem State.advance_v : (s.advance).v = s.v := rfl
@[simp] theorem State.advance_i : (s.advance).i = s.i := rfl
@[simp] theorem State.advance_pc : (s.advance).pc = s.pc + 2 := rfl
@[simp] theorem State.advance_stack : (s.advance).stack = s.stack := rfl
@[simp] theorem State.advance_sp : (s.advance).sp = s.sp := rfl
@[simp] theorem State.advance_dt : (s.advance).dt = s.dt := rfl
@[simp] theorem State.advance_st : (s.advance).st = s.st := rfl
@[simp] theorem State.advance_keys : (s.advance).keys = s.keys := rfl
@[simp] theorem State.advance_wait : (s.advance).wait = s.wait := rfl
@[simp] theorem State.advance_waitReg : (s.advance).waitReg = s.waitReg := rfl
@[simp] theorem State.advance_fb : (s.advance).fb = s.fb := rfl
@[simp] theorem State.advance_dirty : (s.advance).dirty = s.dirty := rfl
@[simp] theorem State.advance_mem : (s.advance).mem = s.mem := rfl
@[simp] theorem State.advance_fault : (s.advance).fault = s.fault := rfl
@[simp] theorem State.advance_inputs : (s.advance).inputs = s.inputs := rfl
@[simp] theorem State.advance_reply : (s.advance).reply = s.reply := rfl
@[simp] theorem State.advance_rnd : (s.advance).rnd = s.rnd := rfl
@[simp] theorem State.advance_draws : (s.advance).draws = s.draws := rfl

/-! ### `State.skipIf` -/

@[simp] theorem State.skipIf_v (c : Bool) : (s.skipIf c).v = s.v := rfl
@[simp] theorem State.skipIf_i (c : Bool) : (s.skipIf c).i = s.i := rfl
@[simp] theorem State.skipIf_pc (c : Bool) : (s.skipIf c).pc = if c then s.pc + 4 else s.pc + 2 := rfl
@[simp] theorem State.skipIf_stack (c : Bool) : (s.skipIf c).stack = s.stack := rfl
@[simp] theorem State.skipIf_sp (c : Bool) : (s.skipIf c).sp = s.sp := rfl
@[simp] theorem State.skipIf_dt (c : Bool) : (s.skipIf c).dt = s.dt := rfl
@[simp] theorem State.skipIf_st (c : Bool) : (s.skipIf c).st = s.st := rfl
@[simp] theorem State.skipIf_keys (c : Bool) : (s.skipIf c).keys = s.keys := rfl
@[simp] theorem State.skipIf_wait (c : Bool) : (s.skipIf c).wait = s.wait := rfl
@[simp] theorem State.skipIf_waitReg (c : Bool) : (s.skipIf c).waitReg = s.waitReg := rfl
@[simp] theorem State.skipIf_fb (c : Bool) : (s.skipIf c).fb = s.fb := rfl
@[simp] theorem State.skipIf_dirty (c : Bool) : (s.skipIf c).dirty = s.dirty := rfl
@[simp] theorem State.skipIf_mem (c : Bool) : (s.skipIf c).mem = s.mem := rfl
@[simp] theorem State.skipIf_fault (c : Bool) : (s.skipIf c).fault = s.fault := rfl
@[simp] theorem State.skipIf_inputs (c : Bool) : (s.skipIf c).inputs = s.inputs := rfl
@[simp] theorem State.skipIf_reply (c : Bool) : (s.skipIf c).reply = s.reply := rfl
@[simp] theorem State.skipIf_rnd (c : Bool) : (s.skipIf c).rnd = s.rnd := rfl
@[simp] theorem State.skipIf_draws (c : Bool) : (s.skipIf c).draws = s.draws := rfl

/-! ### `State.jumpTo` -/

@[simp] theorem State.jumpTo_v (a : Word) : (s.jumpTo a).v = s.v := rfl
@[simp] theorem State.jumpTo_i (a : Word) : (s.jumpTo a).i = s.i := rfl
@[simp] theorem State.jumpTo_pc (a : Word) : (s.jumpTo a).pc = a := rfl
@[simp] theorem State.jumpTo_stack (a : Word) : (s.jumpTo a).stack = s.stack := rfl
@[simp] theorem State.jumpTo_sp (a : Word) : (s.jumpTo a).sp = s.sp := rfl
@[simp] theorem State.jumpTo_dt (a : Word) : (s.jumpTo a).dt = s.dt := rfl
@[simp] theorem State.jumpTo_st (a : Word) : (s.jumpTo a).st = s.st := rfl
@[simp] theorem State.jumpTo_keys (a : Word) : (s.jumpTo a).keys = s.keys := rfl
@[simp] theorem State.jumpTo_wait (a : Word) : (s.jumpTo a).wait = s.wait := rfl
@[simp] theorem State.jumpTo_waitReg (a : Word) : (s.jumpTo a).waitReg = s.waitReg := rfl
@[simp] theorem State.jumpTo_fb (a : Word) : (s.jumpTo a).fb = s.fb := rfl
@[simp] theorem State.jumpTo_dirty (a : Word) : (s.jumpTo a).dirty = s.dirty := rfl
@[simp] theorem State.jumpTo_mem (a : Word) : (s.jumpTo a).mem = s.mem := rfl
@[simp] theorem State.jumpTo_fault (a : Word) : (s.jumpTo a).fault = s.fault := rfl
@[simp] theorem State.jumpTo_inputs (a : Word) : (s.jumpTo a).inputs = s.inputs := rfl
@[simp] theorem State.jumpTo_reply (a : Word) : (s.jumpTo a).reply = s.reply := rfl
@[simp] theorem State.jumpTo_rnd (a : Word) : (s.jumpTo a).rnd = s.rnd := rfl
@[simp] theorem State.jumpTo_draws (a : Word) : (s.jumpTo a).draws = s.draws := rfl

/-! ### `State.raise` -/

@[simp] theorem State.raise_v (c : FaultCode) (w : Word) : (s.raise c w).v = s.v := rfl
@[simp] theorem State.raise_i (c : FaultCode) (w : Word) : (s.raise c w).i = s.i := rfl
@[simp] theorem State.raise_pc (c : FaultCode) (w : Word) : (s.raise c w).pc = s.pc := rfl
@[simp] theorem State.raise_stack (c : FaultCode) (w : Word) : (s.raise c w).stack = s.stack := rfl
@[simp] theorem State.raise_sp (c : FaultCode) (w : Word) : (s.raise c w).sp = s.sp := rfl
@[simp] theorem State.raise_dt (c : FaultCode) (w : Word) : (s.raise c w).dt = s.dt := rfl
@[simp] theorem State.raise_st (c : FaultCode) (w : Word) : (s.raise c w).st = s.st := rfl
@[simp] theorem State.raise_keys (c : FaultCode) (w : Word) : (s.raise c w).keys = s.keys := rfl
@[simp] theorem State.raise_wait (c : FaultCode) (w : Word) : (s.raise c w).wait = s.wait := rfl
@[simp] theorem State.raise_waitReg (c : FaultCode) (w : Word) : (s.raise c w).waitReg = s.waitReg := rfl
@[simp] theorem State.raise_fb (c : FaultCode) (w : Word) : (s.raise c w).fb = s.fb := rfl
@[simp] theorem State.raise_dirty (c : FaultCode) (w : Word) : (s.raise c w).dirty = s.dirty := rfl
@[simp] theorem State.raise_mem (c : FaultCode) (w : Word) : (s.raise c w).mem = s.mem := rfl
@[simp] theorem State.raise_fault (c : FaultCode) (w : Word) : (s.raise c w).fault = some ⟨c, w⟩ := rfl
@[simp] theorem State.raise_inputs (c : FaultCode) (w : Word) : (s.raise c w).inputs = s.inputs := rfl
@[simp] theorem State.raise_reply (c : FaultCode) (w : Word) : (s.raise c w).reply = s.reply := rfl
@[simp] theorem State.raise_rnd (c : FaultCode) (w : Word) : (s.raise c w).rnd = s.rnd := rfl
@[simp] theorem State.raise_draws (c : FaultCode) (w : Word) : (s.raise c w).draws = s.draws := rfl

/-! ### `State.raiseMemory` -/

@[simp] theorem State.raiseMemory_v (a : Nat) : (s.raiseMemory a).v = s.v := rfl
@[simp] theorem State.raiseMemory_i (a : Nat) : (s.raiseMemory a).i = s.i := rfl
@[simp] theorem State.raiseMemory_pc (a : Nat) : (s.raiseMemory a).pc = s.pc := rfl
@[simp] theorem State.raiseMemory_stack (a : Nat) : (s.raiseMemory a).stack = s.stack := rfl
@[simp] theorem State.raiseMemory_sp (a : Nat) : (s.raiseMemory a).sp = s.sp := rfl
@[simp] theorem State.raiseMemory_dt (a : Nat) : (s.raiseMemory a).dt = s.dt := rfl
@[simp] theorem State.raiseMemory_st (a : Nat) : (s.raiseMemory a).st = s.st := rfl
@[simp] theorem State.raiseMemory_keys (a : Nat) : (s.raiseMemory a).keys = s.keys := rfl
@[simp] theorem State.raiseMemory_wait (a : Nat) : (s.raiseMemory a).wait = s.wait := rfl
@[simp] theorem State.raiseMemory_waitReg (a : Nat) : (s.raiseMemory a).waitReg = s.waitReg := rfl
@[simp] theorem State.raiseMemory_fb (a : Nat) : (s.raiseMemory a).fb = s.fb := rfl
@[simp] theorem State.raiseMemory_dirty (a : Nat) : (s.raiseMemory a).dirty = s.dirty := rfl
@[simp] theorem State.raiseMemory_mem (a : Nat) : (s.raiseMemory a).mem = s.mem := rfl
@[simp] theorem State.raiseMemory_fault (a : Nat) : (s.raiseMemory a).fault = some ⟨.memoryFault, memoryFaultInfo a⟩ := rfl
@[simp] theorem State.raiseMemory_inputs (a : Nat) : (s.raiseMemory a).inputs = s.inputs := rfl
@[simp] theorem State.raiseMemory_reply (a : Nat) : (s.raiseMemory a).reply = s.reply := rfl
@[simp] theorem State.raiseMemory_rnd (a : Nat) : (s.raiseMemory a).rnd = s.rnd := rfl
@[simp] theorem State.raiseMemory_draws (a : Nat) : (s.raiseMemory a).draws = s.draws := rfl

/-! ### Reading registers -/

theorem State.reg_eq_of_v_eq {s t : State} (h : t.v = s.v) (r : Reg) : t.reg r = s.reg r := by
  simp [State.reg, h]

@[simp] theorem State.reg_setReg (x r : Reg) (b : Byte) :
    (s.setReg x b).reg r = if r = x then b else s.reg r := by
  have hx : x.val = r.val ↔ r = x := by rw [Fin.ext_iff]; exact eq_comm
  simp only [State.reg, State.setReg_v, Vector.getElem_set, hx]

@[simp] theorem State.reg_setFlag (f : Bool) (r : Reg) :
    (s.setFlag f).reg r = if r = VF then (if f then 0x01 else 0x00) else s.reg r := by
  simp [State.setFlag]

/-- VF ends as the flag, also when it is the destination (R29). -/
@[simp] theorem State.reg_setResultFlag (x r : Reg) (b : Byte) (f : Bool) :
    (s.setResultFlag x b f).reg r =
      if r = VF then (if f then 0x01 else 0x00) else if r = x then b else s.reg r := by
  have h : s.setResultFlag x b f = (s.setReg x b).setFlag f := rfl
  rw [h, State.reg_setFlag, State.reg_setReg]

@[simp] theorem State.reg_advance (r : Reg) : s.advance.reg r = s.reg r := rfl
@[simp] theorem State.reg_skipIf (c : Bool) (r : Reg) : (s.skipIf c).reg r = s.reg r := rfl
@[simp] theorem State.reg_jumpTo (a : Word) (r : Reg) : (s.jumpTo a).reg r = s.reg r := rfl
@[simp] theorem State.reg_raise (c : FaultCode) (w : Word) (r : Reg) :
    (s.raise c w).reg r = s.reg r := rfl
@[simp] theorem State.reg_raiseMemory (a : Nat) (r : Reg) : (s.raiseMemory a).reg r = s.reg r := rfl

end Sys2Proof.Machine
end

