-- ==== Sys2Proof/Laws/Ops.lean ====
section
/-! SUPPORT. One lemma for each shared operation that says what it can do: the range check, the call
stack, fetch, the parameters' decided values, and the shared tails of the meanings. -/

namespace Sys2Proof.Machine

/-! ### Range check and fetch -/

theorem outOfRange_eq_true {a n : Nat} : outOfRange a n = true ↔ 0 < n ∧ 0x1000 < a + n := by
  simp only [outOfRange, Bool.and_eq_true, decide_eq_true_eq]
  exact Iff.rfl

theorem outOfRange_eq_false {a n : Nat} : outOfRange a n = false ↔ n = 0 ∨ a + n ≤ 0x1000 := by
  rw [← Bool.not_eq_true, outOfRange_eq_true]
  omega

/-- The info of a MemoryFault when the first address is a 16-bit register (R211). -/
theorem memoryFaultInfo_word (w : Word) :
    memoryFaultInfo w.toNat = if w.toNat ≤ 0x1000 then 0x1000 else w := by
  apply BitVec.eq_of_toNat_eq
  have := w.isLt
  split <;> simp [memoryFaultInfo, Config.memSize] <;> omega

theorem fetchWord_eq_none {s : State} : fetchWord s = none ↔ 0xFFE < s.pc.toNat := by
  unfold fetchWord
  cases h : outOfRange s.pc.toNat 2
  · rw [outOfRange_eq_false] at h
    simp; omega
  · rw [outOfRange_eq_true] at h
    simp; omega

theorem fetchWord_of_le {s : State} (h : s.pc.toNat ≤ 0xFFE) :
    fetchWord s = some (wordOfBytes (readByte s.mem s.pc.toNat) (readByte s.mem (s.pc.toNat + 1))) := by
  have : outOfRange s.pc.toNat 2 = false := outOfRange_eq_false.mpr (by omega)
  simp [fetchWord, this]

theorem fetchWord_congr {s t : State} (hm : ∀ a, readByte s.mem a = readByte t.mem a)
    (hp : s.pc = t.pc) : fetchWord s = fetchWord t := by
  simp [fetchWord, hm, hp]

/-! ### The call stack -/

/-- Everything a push does. -/
theorem State.push_cases (s : State) (ret : Word) :
    (s.sp.val = 16 ∧ s.push ret = none) ∨
    (∃ h : s.sp.val < 16, s.push ret =
      some { s with stack := s.stack.set s.sp.val ret h, sp := ⟨s.sp.val + 1, by omega⟩ }) := by
  have := s.sp.isLt
  by_cases h : s.sp.val < 16
  · exact .inr ⟨h, dif_pos h⟩
  · exact .inl ⟨by omega, dif_neg h⟩

/-- Everything a pop does. -/
theorem State.pop_cases (s : State) :
    (s.sp.val = 0 ∧ s.pop = none) ∨
    (∃ h : 0 < s.sp.val, s.pop =
      some (s.stack[s.sp.val - 1]'(by have := s.sp.isLt; omega),
        { s with sp := ⟨s.sp.val - 1, by have := s.sp.isLt; omega⟩ })) := by
  by_cases h : 0 < s.sp.val
  · exact .inr ⟨h, dif_pos h⟩
  · exact .inl ⟨by omega, dif_neg h⟩

/-! ### The decided parameters (R7) -/

@[simp] theorem State.shiftOperand_eq (s : State) (x y : Reg) : s.shiftOperand x y = s.reg x := rfl

@[simp] theorem dumpCount_eq (x : Reg) : dumpCount x = 16 := rfl

@[simp] theorem writeLogicAndAdvance_eq (x : Reg) (b : Byte) (s : State) :
    writeLogicAndAdvance x b s = writeAndAdvance x b s := rfl

theorem execAddI_eq (x : Reg) (s : State) :
    execAddI x s = setIndexAndAdvance (BitVec.ofNat 16 (s.i.toNat + (s.reg x).toNat))
      (s.setFlag (indexFlag s.i (s.reg x))) := rfl

/-! ### The shared tails of the meanings -/

theorem writeAndAdvance_eq (x : Reg) (b : Byte) (s : State) :
    writeAndAdvance x b s = .next (s.setReg x b).advance := rfl

theorem writeFlagAndAdvance_eq (x : Reg) (b : Byte) (f : Bool) (s : State) :
    writeFlagAndAdvance x b f s = .next (s.setResultFlag x b f).advance := rfl

theorem setIndexAndAdvance_eq (w : Word) (s : State) :
    setIndexAndAdvance w s = .next { s with i := w, pc := s.pc + 2 } := rfl

/-- Everything a store through `I` does: it faults and changes nothing else, or stores its bytes from
`I` upward. -/
theorem storeAtIndex_cases (bs : List Byte) (s : State) :
    (outOfRange s.i.toNat bs.length = true ∧
      storeAtIndex bs s = .next (s.raiseMemory s.i.toNat)) ∨
    (outOfRange s.i.toNat bs.length = false ∧
      storeAtIndex bs s =
        .next { s with mem := writeBytes s.mem s.i.toNat bs, pc := s.pc + 2 }) := by
  unfold storeAtIndex dataAddress
  rw [Nat.add_zero]
  cases h : outOfRange s.i.toNat bs.length
  · exact .inr ⟨rfl, rfl⟩
  · exact .inl ⟨rfl, rfl⟩

@[simp] theorem length_bcdDigits (b : Byte) : (bcdDigits b).length = 3 := rfl

/-- The registers FX65 loads: register r below the count from `a + r`, the others as before. -/
theorem getElem_loadRegsFrom (m : Memory) (a : Nat) (v : Vector Byte 16) (n : Nat) (r : Nat)
    (hr : r < 16) :
    (loadRegsFrom m a v n)[r] = if r < n then readByte m (a + r) else v[r] := by
  induction n with
  | zero => simp [loadRegsFrom]
  | succ n ih =>
    simp only [loadRegsFrom, Vector.getElem_setIfInBounds, ih]
    by_cases h : n = r
    · subst h; simp
    · rw [if_neg h]
      by_cases h' : r < n
      · rw [if_pos h', if_pos (by omega)]
      · rw [if_neg h', if_neg (by omega)]

/-- FX55 stores `V[r]` as byte r. -/
theorem getElem_dumpBytes (s : State) (r : Reg) (h : r.val < (s.v.toList.take 16).length) :
    (s.v.toList.take 16)[r.val] = s.reg r := by
  simp [State.reg]

/-- Everything FX65 does: it faults and changes nothing else, or loads all sixteen registers. -/
theorem execLoadRegs_cases (x : Reg) (s : State) :
    (0x1000 < s.i.toNat + 16 ∧ execLoadRegs x s = .next (s.raiseMemory s.i.toNat)) ∨
    (s.i.toNat + 16 ≤ 0x1000 ∧ ∃ v : Vector Byte 16,
      (∀ r : Reg, v[r.val] = readByte s.mem (s.i.toNat + r.val)) ∧
      execLoadRegs x s = .next { s with v := v, pc := s.pc + 2 }) := by
  unfold execLoadRegs dataAddress
  rw [Nat.add_zero, dumpCount_eq]
  cases h : outOfRange s.i.toNat 16
  · rw [outOfRange_eq_false] at h
    refine .inr ⟨by omega, loadRegsFrom s.mem s.i.toNat s.v 16, fun r => ?_, rfl⟩
    rw [getElem_loadRegsFrom, if_pos r.isLt]
  · rw [outOfRange_eq_true] at h
    exact .inl ⟨h.2, rfl⟩

theorem length_dumpBytes (s : State) : (s.v.toList.take 16).length = 16 := by simp

/-! ### Operand arithmetic -/

theorem addressOf_toNat (nnn : Addr12) : (addressOf nnn).toNat = nnn.toNat := by
  have := nnn.isLt
  simp [addressOf]
  omega

theorem offsetAddress_toNat (b : Byte) (nnn : Addr12) :
    (offsetAddress b nnn).toNat = b.toNat + nnn.toNat := by
  have := nnn.isLt
  have := b.isLt
  simp [offsetAddress]
  omega

theorem subtractBytes_toNat (a b : Byte) :
    (subtractBytes a b).toNat = if b.toNat ≤ a.toNat then a.toNat - b.toNat else a.toNat + 256 - b.toNat := by
  have ha := a.isLt
  have hb := b.isLt
  simp only [subtractBytes, BitVec.toNat_ofInt]
  split <;> omega

end Sys2Proof.Machine
end

