-- ==== Sys2Proof/Laws/Display.lean ====
section
/-! SUPPORT. What the blitter does, pixel by pixel: the pixel at (x, y) is toggled exactly when the
sprite has a 1 bit that the wrapped placement puts there (R200, R202). -/

namespace Sys2Proof.Machine

/-- The sprite column that falls on framebuffer column x when column 0 falls on x0. -/
def spriteCol (x0 x : Col) : Nat := (x.val + 64 - x0.val) % 64

/-- The sprite row that falls on framebuffer row y when row 0 falls on row y0. -/
def spriteLine (y0 : Nat) (y : Row) : Nat := (y.val + 32 - y0 % 32) % 32

/-- Whether a sprite byte toggles column x. -/
def byteCovers (b : Byte) (x0 x : Col) : Bool :=
  decide (spriteCol x0 x < 8) && b.getLsbD (7 - spriteCol x0 x)

/-- Whether the sprite with these rows, placed at (x0, y0), toggles the pixel (x, y). -/
def spriteCovers (rows : List Byte) (x0 : Col) (y0 : Nat) (x : Col) (y : Row) : Bool :=
  match rows[spriteLine y0 y]? with
  | some b => byteCovers b x0 x
  | none => false

theorem spriteRow_step (b : Byte) (x0 x : Col) (n : Nat) (hn : n ≤ 8) :
    ((List.range n).foldl
      (fun m c => if b.getLsbD (7 - c) then m ^^^ BitVec.twoPow 64 ((x0.val + c) % 64) else m)
      (0 : BitVec 64)).getLsbD x.val =
    (decide (spriteCol x0 x < n) && b.getLsbD (7 - spriteCol x0 x)) := by
  induction n with
  | zero => simp
  | succ n ih =>
    have hx := x.isLt
    have hx0 := x0.isLt
    have hcol : (x0.val + n) % 64 = x.val ↔ spriteCol x0 x = n := by unfold spriteCol; omega
    rw [List.range_succ, List.foldl_append, List.foldl_cons, List.foldl_nil]
    by_cases hb : b.getLsbD (7 - n) = true
    · rw [if_pos hb, BitVec.getLsbD_xor, ih (by omega), BitVec.getLsbD_twoPow]
      by_cases h : spriteCol x0 x = n
      · simp [h, hcol.mpr h, hb]
      · have h1 : ¬ (x0.val + n) % 64 = x.val := fun hc => h (hcol.mp hc)
        have h2 : (spriteCol x0 x < n + 1) ↔ (spriteCol x0 x < n) := by omega
        simp [h1, h2]
    · rw [if_neg hb, ih (by omega)]
      by_cases h : spriteCol x0 x = n
      · simp [h, hb]
      · have h2 : (spriteCol x0 x < n + 1) ↔ (spriteCol x0 x < n) := by omega
        simp [h2]

/-- The columns that one sprite byte toggles. -/
theorem getLsbD_spriteRow (b : Byte) (x0 x : Col) :
    (spriteRow b x0).getLsbD x.val = byteCovers b x0 x := spriteRow_step b x0 x 8 (Nat.le_refl 8)

/-- The pixels after one sprite row. -/
theorem pixel_blitRow (acc : Blit) (b : Byte) (x0 x : Col) (y0 y : Row) :
    pixel (blitRow acc b x0 y0).fb x y =
      (pixel acc.fb x y ^^ (decide (y = y0) && byteCovers b x0 x)) := by
  have hy : y0.val = y.val ↔ y = y0 := by rw [Fin.ext_iff]; exact eq_comm
  simp only [pixel, blitRow, Vector.getElem_set]
  by_cases h : y = y0
  · subst h
    rw [if_pos rfl, BitVec.getLsbD_xor, getLsbD_spriteRow]
    simp
  · rw [if_neg (fun hc => h (hy.mp hc))]
    simp [h]

/-- A 64-bit row is not zero exactly when some column of it is on. -/
theorem row_ne_zero_iff (v : BitVec 64) : (v != 0) = true ↔ ∃ x : Col, v.getLsbD x.val = true := by
  constructor
  · intro h
    by_contra hc
    have : v = 0 := by
      apply BitVec.eq_of_getLsbD_eq
      intro i hi
      have : ¬ v.getLsbD i = true := fun hv => hc ⟨⟨i, hi⟩, hv⟩
      simpa using this
    simp [this] at h
  · rintro ⟨x, hx⟩
    by_contra hc
    have : v = 0 := by simpa using hc
    simp [this] at hx

/-- One sprite row collides exactly when it toggles a pixel of its row that is on. -/
theorem collision_blitRow (acc : Blit) (b : Byte) (x0 : Col) (y0 : Row) :
    (blitRow acc b x0 y0).collision = true ↔
      acc.collision = true ∨ ∃ x, pixel acc.fb x y0 = true ∧ byteCovers b x0 x = true := by
  simp only [blitRow, Bool.or_eq_true, row_ne_zero_iff, BitVec.getLsbD_and, getLsbD_spriteRow,
    Bool.and_eq_true, pixel]

theorem spriteCovers_nil (x0 : Col) (y0 : Nat) (x : Col) (y : Row) :
    spriteCovers [] x0 y0 x y = false := rfl

/-- The first row of a sprite, and the rows after it one line further down. -/
theorem spriteCovers_cons (b : Byte) (bs : List Byte) (x0 : Col) (y0 : Nat)
    (x : Col) (y : Row) :
    spriteCovers (b :: bs) x0 y0 x y =
      if y = wrapRow y0 then byteCovers b x0 x else spriteCovers bs x0 (y0 + 1) x y := by
  have hy := y.isLt
  have hiff : y = wrapRow y0 ↔ spriteLine y0 y = 0 := by
    rw [Fin.ext_iff]
    simp only [wrapRow, spriteLine]
    omega
  by_cases h : y = wrapRow y0
  · rw [if_pos h]
    simp [spriteCovers, hiff.mp h]
  · rw [if_neg h]
    have h0 : spriteLine y0 y ≠ 0 := fun hc => h (hiff.mpr hc)
    have hs : spriteLine y0 y = spriteLine (y0 + 1) y + 1 := by
      unfold spriteLine at *
      omega
    simp only [spriteCovers, hs, List.getElem?_cons_succ]

theorem spriteCovers_above (bs : List Byte) (hlen : bs.length < 32) (x0 : Col) (y0 : Nat) (x : Col) :
    spriteCovers bs x0 (y0 + 1) x (wrapRow y0) = false := by
  have : spriteLine (y0 + 1) (wrapRow y0) = 31 := by
    simp only [spriteLine, wrapRow]
    omega
  rw [spriteCovers, this, List.getElem?_eq_none (by omega)]

/-- The pixels after a whole sprite of at most 32 rows: each is toggled exactly when the sprite covers
it, so wrapping is per pixel and the order of the rows is unobservable (R202). -/
theorem pixel_blitRows (bs : List Byte) (hlen : bs.length ≤ 32) (acc : Blit) (x0 : Col) (y0 : Nat)
    (x : Col) (y : Row) :
    pixel (blitRows acc bs x0 y0).fb x y = (pixel acc.fb x y ^^ spriteCovers bs x0 y0 x y) := by
  induction bs generalizing acc y0 with
  | nil => simp [blitRows, spriteCovers_nil]
  | cons b bs ih =>
    simp only [List.length_cons] at hlen
    rw [blitRows, ih (by omega), pixel_blitRow, spriteCovers_cons b bs]
    by_cases h : y = wrapRow y0
    · rw [if_pos h, h, spriteCovers_above bs (by omega)]
      simp
    · rw [if_neg h]
      simp [h]

/-- A sprite collides exactly when it covers a pixel that was on before the instruction (R202). -/
theorem collision_blitRows (bs : List Byte) (hlen : bs.length ≤ 32) (acc : Blit) (x0 : Col) (y0 : Nat) :
    (blitRows acc bs x0 y0).collision = true ↔
      acc.collision = true ∨
        ∃ x y, pixel acc.fb x y = true ∧ spriteCovers bs x0 y0 x y = true := by
  induction bs generalizing acc y0 with
  | nil => simp [blitRows, spriteCovers_nil]
  | cons b bs ih =>
    simp only [List.length_cons] at hlen
    rw [blitRows, ih (by omega), collision_blitRow]
    constructor
    · rintro ((hc | ⟨x, hp, hb⟩) | ⟨x, y, hp, hb⟩)
      · exact .inl hc
      · exact .inr ⟨x, wrapRow y0, hp, by rw [spriteCovers_cons b bs, if_pos rfl]; exact hb⟩
      · refine .inr ⟨x, y, ?_, ?_⟩
        · by_cases h : y = wrapRow y0
          · rw [h, spriteCovers_above bs (by omega)] at hb
            exact absurd hb (by simp)
          · simpa [pixel_blitRow, h] using hp
        · by_cases h : y = wrapRow y0
          · rw [h, spriteCovers_above bs (by omega)] at hb
            exact absurd hb (by simp)
          · rw [spriteCovers_cons b bs, if_neg h]
            exact hb
    · rintro (hc | ⟨x, y, hp, hb⟩)
      · exact .inl (.inl hc)
      · rw [spriteCovers_cons b bs] at hb
        by_cases h : y = wrapRow y0
        · rw [if_pos h] at hb
          exact .inl (.inr ⟨x, h ▸ hp, hb⟩)
        · rw [if_neg h] at hb
          exact .inr ⟨x, y, by simpa [pixel_blitRow, h] using hp, hb⟩

/-- A framebuffer is its pixels. -/
theorem frame_eq_of_pixel_eq {f g : Frame} (h : ∀ x y, pixel f x y = pixel g x y) : f = g := by
  apply Vector.ext
  intro y hy
  apply BitVec.eq_of_getLsbD_eq
  intro x hx
  exact h ⟨x, hx⟩ ⟨y, hy⟩

@[simp] theorem pixel_blankFrame (x : Col) (y : Row) : pixel blankFrame x y = false := by
  simp [pixel, blankFrame]

/-- The sprite of a DXYN has at most 15 rows. -/
theorem length_spriteRows (m : Memory) (a : Nat) (n : Nibble) : (readBytes m a n.toNat).length ≤ 32 := by
  have := n.isLt
  simp
  omega

/-- Every pixel after DXYN's blit. -/
theorem pixel_spriteBlit (x y : Reg) (n : Nibble) (s : State) (px : Col) (py : Row) :
    pixel (spriteBlit x y n s).fb px py =
      (pixel s.fb px py ^^ spriteCovers (readBytes s.mem s.i.toNat n.toNat) (startCol (s.reg x))
        (startRow (s.reg y)).val px py) := by
  rw [spriteBlit, pixel_blitRows _ (length_spriteRows _ _ _)]
  rfl

/-- DXYN's collision flag. -/
theorem collision_spriteBlit (x y : Reg) (n : Nibble) (s : State) :
    (spriteBlit x y n s).collision = true ↔
      ∃ px py, pixel s.fb px py = true ∧ spriteCovers (readBytes s.mem s.i.toNat n.toNat)
        (startCol (s.reg x)) (startRow (s.reg y)).val px py = true := by
  rw [spriteBlit, collision_blitRows _ (length_spriteRows _ _ _)]
  simp [dataAddress]

/-- Everything DXYN does: it faults and changes nothing else, or draws (R202). -/
theorem execDrw_cases (x y : Reg) (n : Nibble) (s : State) :
    (0 < n.toNat ∧ 0x1000 < s.i.toNat + n.toNat ∧
      execDrw x y n s = .next (s.raiseMemory s.i.toNat)) ∨
    ((n.toNat = 0 ∨ s.i.toNat + n.toNat ≤ 0x1000) ∧
      execDrw x y n s = .next ({ s with fb := (spriteBlit x y n s).fb, dirty := true }.setFlag
        (spriteBlit x y n s).collision).advance) := by
  unfold execDrw dataAddress
  rw [Nat.add_zero]
  cases h : outOfRange s.i.toNat n.toNat
  · exact .inr ⟨outOfRange_eq_false.mp h, rfl⟩
  · exact .inl ⟨(outOfRange_eq_true.mp h).1, (outOfRange_eq_true.mp h).2, rfl⟩

end Sys2Proof.Machine
end

