-- ==== Sys2Proof/Laws/Events.lean ====
section
/-! SUPPORT. What each event and the start of a step can do, said once; and the small lemmas of the
words of Safety.lean. -/

namespace Sys2Proof.Machine

/-! ### Events -/

theorem tick_eq (s : State) :
    tick s = { s with dt := BitVec.ofNat 8 (s.dt.toNat - 1), st := BitVec.ofNat 8 (s.st.toNat - 1) } :=
  rfl

/-- A timer's decrement never goes below zero (R127). -/
theorem toNat_decrement (b : Byte) : (BitVec.ofNat 8 (b.toNat - 1)).toNat = b.toNat - 1 := by
  have := b.isLt
  simp
  omega

@[simp] theorem State.awaits_eq (s : State) (k : Key) : s.awaits k = true := rfl

/-- Everything a SetKey with a key in range does (R129). -/
theorem setKeyInRange_cases (k : Key) (pressed : Bool) (s : State) :
    (s.wait = true ∧ pressed = true ∧ setKeyInRange k pressed s =
      { s with keys := s.keys.set k.val pressed, v := s.v.set s.waitReg.val (BitVec.ofNat 8 k.val),
               wait := false }) ∨
    ((s.wait = false ∨ pressed = false) ∧
      setKeyInRange k pressed s = { s with keys := s.keys.set k.val pressed }) := by
  unfold setKeyInRange
  cases hw : s.wait <;> cases hp : pressed <;> simp

theorem setKey_of_lt {index : Nat} (h : index < 16) (pressed : Bool) (s : State) :
    setKey index pressed s = { setKeyInRange ⟨index, h⟩ pressed s with reply := .ok } := dif_pos h

theorem setKey_of_ge {index : Nat} (h : 16 ≤ index) (pressed : Bool) (s : State) :
    setKey index pressed s = { s with reply := .inputOutOfRange } := dif_neg (by omega)

/-- Everything a Load does (R126). -/
theorem load_cases (bytes : List Byte) (s : State) :
    (3232 < bytes.length ∧ load bytes s = { s with reply := .loadTooLarge }) ∨
    (bytes.length ≤ 3232 ∧
      load bytes s = { s with mem := writeBytes s.mem 0x200 bytes, reply := .ok }) := by
  by_cases h : 3232 < bytes.length
  · exact .inl ⟨h, if_pos h⟩
  · exact .inr ⟨by omega, if_neg h⟩

/-! ### The start of a step -/

/-- Everything the start of a Cycle that is neither halted nor waiting can do (R222). -/
theorem startInstr_cases (r : Option Byte) (s : State) :
    (fetchWord s = none ∧ startInstr r s = .done (s.raiseMemory s.pc.toNat)) ∨
    (∃ op bad, fetchWord s = some op ∧ decode op = .decodeError bad ∧
      startInstr r s = .done (s.raise .decodeError bad)) ∨
    (∃ op i, fetchWord s = some op ∧ decode op = .instr i ∧
      startInstr r s = .run i { s with rnd := r }) := by
  unfold startInstr
  cases hf : fetchWord s with
  | none => exact .inl ⟨rfl, rfl⟩
  | some op =>
    cases hd : decode op with
    | decodeError bad => exact .inr (.inl ⟨op, bad, rfl, hd, by simp [hd]⟩)
    | instr i => exact .inr (.inr ⟨op, i, rfl, hd, by simp [hd]⟩)

/-- Everything the start of a Cycle can do (R122, R222). -/
theorem startCycle_cases (r : Option Byte) (s : State) :
    (s.fault ≠ none ∧ startCycle r s = .done s) ∨
    (s.fault = none ∧ s.wait = true ∧ startCycle r s = .done s) ∨
    (s.fault = none ∧ s.wait = false ∧ startCycle r s = startInstr r s) := by
  unfold startCycle
  cases hf : s.fault <;> cases hw : s.wait <;> simp

/-! ### Frames -/

theorem KeepsAllBut.refl (ps : List Part) (s : State) : KeepsAllBut ps s s := by
  intro p _
  cases p <;> simp [Part.same]

theorem KeepsAllBut.mono {ps qs : List Part} {s t : State} (h : KeepsAllBut ps s t)
    (hsub : ∀ p, p ∈ ps → p ∈ qs) : KeepsAllBut qs s t := fun p hp => h p (fun hc => hp (hsub p hc))

theorem KeepsAllBut.trans {ps : List Part} {s t u : State} (h : KeepsAllBut ps s t)
    (h' : KeepsAllBut ps t u) : KeepsAllBut ps s u := by
  intro p hp
  have h1 := h p hp
  have h2 := h' p hp
  cases p <;> simp_all [Part.same]

/-- When `V` is kept, every register is. -/
theorem KeepsAllBut.reg {ps : List Part} {s t : State} (h : KeepsAllBut ps s t) (hv : Part.v ∉ ps)
    (r : Reg) : t.reg r = s.reg r := State.reg_eq_of_v_eq (h .v hv) r

theorem raise_raises (s : State) (code : FaultCode) (info : Word) :
    Raises s (s.raise code info) code info := by
  refine ⟨rfl, fun p hp => ?_⟩
  cases p <;> simp_all [Part.same]

theorem raiseMemory_raises (s : State) (a : Nat) :
    Raises s (s.raiseMemory a) .memoryFault (memoryFaultInfo a) := raise_raises s _ _

/-- The info of a MemoryFault, as statements write it (R211). -/
theorem firstOutside_eq (w : Word) : memoryFaultInfo w.toNat = firstOutside w := memoryFaultInfo_word w

/-! ### A step, by how it starts -/

theorem step_done {s t : State} (h : startStep s = .done t) : step s = .next t := by
  simp [step, h]

theorem step_run {s t : State} {i : Instr} (h : startStep s = .run i t) : step s = exec i t := by
  simp [step, h]

/-- A step that is a Cycle: `startCycle` on the state without the event (R122). -/
theorem startStep_cycle {s : State} (h : NextIsCycle s) :
    ∃ r, startStep s = startCycle r s.dropEvent ∧ s.atExecute = { s.dropEvent with rnd := r } := by
  rcases h with h | ⟨r, es, h⟩
  · have hd : s.dropEvent = s := by
      cases s
      simp_all [State.dropEvent]
    refine ⟨none, ?_, by simp [State.atExecute, State.dropEvent, h]⟩
    rw [hd]
    simp [startStep, h]
  · exact ⟨some r, by simp [startStep, h, State.dropEvent],
      by simp [State.atExecute, State.dropEvent, h]⟩

/-! ### The start of a step, by the event -/

section
variable {s : State} {es : List Event}

theorem startStep_nil (h : s.inputs = []) : startStep s = startCycle none s := by
  simp [startStep, h]

theorem startStep_cycle_cons {r : Byte} (h : s.inputs = .cycle r :: es) :
    startStep s = startCycle (some r) { s with inputs := es } := by
  simp [startStep, h]

theorem startStep_tick (h : s.inputs = .tick :: es) :
    startStep s = .done (tick { s with inputs := es }) := by
  simp [startStep, h]

theorem startStep_setKey {k : Nat} {p : Bool} (h : s.inputs = .setKey k p :: es) :
    startStep s = .done (setKey k p { s with inputs := es }) := by
  simp [startStep, h]

theorem startStep_load {bytes : List Byte} (h : s.inputs = .load bytes :: es) :
    startStep s = .done (load bytes { s with inputs := es }) := by
  simp [startStep, h]

theorem startStep_snapshot (h : s.inputs = .snapshot :: es) :
    startStep s = .done (snapshot { s with inputs := es }) := by
  simp [startStep, h]

theorem startStep_ackFrame (h : s.inputs = .ackFrame :: es) :
    startStep s = .done (ackFrame { s with inputs := es }) := by
  simp [startStep, h]

theorem startStep_reset (h : s.inputs = .reset :: es) :
    startStep s = .done (resetEvent { s with inputs := es }) := by
  simp [startStep, h]

/-- A Cycle while a fault stands or the block waits does nothing (R123, R124). -/
theorem startCycle_idle {r : Option Byte} (h : s.fault ≠ none ∨ s.wait = true) :
    startCycle r s = .done s := by
  rcases startCycle_cases r s with h' | h' | h'
  · exact h'.2
  · exact h'.2.2
  · rcases h with h | h
    · exact absurd h'.1 h
    · exact absurd h'.2.1 (by simp [h])

end

/-- One step of a waiting block whose next event is no press and no Reset (R124, R129, R230): the wait,
the awaited register, `PC` and the V registers stay. -/
theorem step_waiting {s : State} (hw : s.wait = true)
    (he : ∀ e ∈ s.inputs.head?, e.keepsWait = true) :
    ∃ t, step s = .next t ∧ t.inputs = s.inputs.tail ∧ t.wait = true ∧ t.waitReg = s.waitReg ∧
      t.pc = s.pc ∧ t.v = s.v := by
  cases hi : s.inputs with
  | nil =>
    exact ⟨s, step_done (by rw [startStep_nil hi, startCycle_idle (.inr hw)]), by simp [hi], hw, rfl,
      rfl, rfl⟩
  | cons e es =>
    have hk : e.keepsWait = true := he e (by simp [hi])
    cases e with
    | cycle r =>
      exact ⟨{ s with inputs := es },
        step_done ((startStep_cycle_cons hi).trans (startCycle_idle (.inr hw))), rfl, hw, rfl, rfl, rfl⟩
    | tick => exact ⟨_, step_done (startStep_tick hi), rfl, hw, rfl, rfl, rfl⟩
    | snapshot => exact ⟨_, step_done (startStep_snapshot hi), rfl, hw, rfl, rfl, rfl⟩
    | ackFrame => exact ⟨_, step_done (startStep_ackFrame hi), rfl, hw, rfl, rfl, rfl⟩
    | reset => cases hk
    | load bytes =>
      refine ⟨_, step_done (startStep_load hi), ?_⟩
      rcases load_cases bytes { s with inputs := es } with ⟨_, h⟩ | ⟨_, h⟩ <;> rw [h] <;>
        exact ⟨rfl, hw, rfl, rfl, rfl⟩
    | setKey index pressed =>
      refine ⟨_, step_done (startStep_setKey hi), ?_⟩
      by_cases hlt : index < 16
      · rw [setKey_of_lt hlt]
        rcases setKeyInRange_cases ⟨index, hlt⟩ pressed { s with inputs := es } with
          ⟨_, hp, _⟩ | ⟨_, h⟩
        · simp [Event.keepsWait, hp, hlt] at hk
        · rw [h]
          exact ⟨rfl, hw, rfl, rfl, rfl⟩
      · rw [setKey_of_ge (by omega)]
        exact ⟨rfl, hw, rfl, rfl, rfl⟩

/-- A run of events, the first one taken off. -/
theorem run_succ {s t : State} (h : step s = .next t) (k : Nat) :
    Sys2Proof.core.run (k + 1) s = Sys2Proof.core.run k t := by
  have hs : Sys2Proof.core.step s = .next t := h
  simp only [Host.Core.run, hs]

end Sys2Proof.Machine
end

