-- ==== Sys2Proof/Laws/PerInstr.lean ====
section
/-! SUPPORT. Statements about every instruction as syntax, one lemma for each constructor. Family Row:
the word of an instruction selects the row of the opcode table (R94) that has the instruction's
mnemonic. -/

namespace Sys2Proof.Laws.Row

/-- The encoded word selects the row of the instruction's own mnemonic. -/
def Statement (i : Instr) : Prop :=
  ∃ r ∈ opcodeTable, r.mnemonic = i.mnemonic ∧ r.selects (encode i) = true

/-- A mask that keeps the top nibble alone. -/
theorem and_F000 (t : Nibble) (op : Word) (h : fieldT op = t) : op &&& 0xF000 = t ++ (0 : Addr12) := by
  subst h
  apply BitVec.eq_of_getLsbD_eq (w := 16)
  intro i hi
  simp only [fieldT, BitVec.getLsbD_and, BitVec.getLsbD_append, BitVec.getLsbD_extractLsb']
  interval_cases i <;> simp

/-- A mask that keeps the top and the low nibble. -/
theorem and_F00F (t n : Nibble) (op : Word) (h : fieldT op = t) (h' : fieldN op = n) :
    op &&& 0xF00F = t ++ (0 : Byte) ++ n := by
  subst h h'
  apply BitVec.eq_of_getLsbD_eq (w := 16)
  intro i hi
  simp only [fieldT, fieldN, BitVec.getLsbD_and, BitVec.getLsbD_append, BitVec.getLsbD_extractLsb']
  interval_cases i <;> simp

/-- A mask that keeps the top nibble and the low byte. -/
theorem and_F0FF (t : Nibble) (low : Byte) (op : Word) (h : fieldT op = t) (h' : fieldNN op = low) :
    op &&& 0xF0FF = t ++ (0 : Nibble) ++ low := by
  subst h h'
  apply BitVec.eq_of_getLsbD_eq (w := 16)
  intro i hi
  simp only [fieldT, fieldNN, BitVec.getLsbD_and, BitVec.getLsbD_append, BitVec.getLsbD_extractLsb']
  interval_cases i <;> simp

theorem cls : Statement .cls :=
  ⟨⟨"CLS", 0xFFFF, 0x00E0⟩, by decide, rfl, by decide⟩

theorem ret : Statement .ret :=
  ⟨⟨"RET", 0xFFFF, 0x00EE⟩, by decide, rfl, by decide⟩

theorem jp (nnn : Addr12) : Statement (.jp nnn) :=
  ⟨⟨"JP_NNN", 0xF000, 0x1000⟩, by decide, rfl,
    beq_iff_eq.mpr (and_F000 0x1 _ (fieldT_formatNNN 0x1 nnn))⟩

theorem call (nnn : Addr12) : Statement (.call nnn) :=
  ⟨⟨"CALL_NNN", 0xF000, 0x2000⟩, by decide, rfl,
    beq_iff_eq.mpr (and_F000 0x2 _ (fieldT_formatNNN 0x2 nnn))⟩

theorem seImm (x : Reg) (nn : Byte) : Statement (.seImm x nn) :=
  ⟨⟨"SE_VX__NN", 0xF000, 0x3000⟩, by decide, rfl,
    beq_iff_eq.mpr (and_F000 0x3 _ (fieldT_formatXNN 0x3 x nn))⟩

theorem sneImm (x : Reg) (nn : Byte) : Statement (.sneImm x nn) :=
  ⟨⟨"SNE_VX__NN", 0xF000, 0x4000⟩, by decide, rfl,
    beq_iff_eq.mpr (and_F000 0x4 _ (fieldT_formatXNN 0x4 x nn))⟩

theorem seReg (x y : Reg) : Statement (.seReg x y) :=
  ⟨⟨"SE_VX__VY", 0xF00F, 0x5000⟩, by decide, rfl,
    beq_iff_eq.mpr (and_F00F 0x5 0x0 _ (fieldT_formatXYN 0x5 x y 0x0) (fieldN_formatXYN 0x5 x y 0x0))⟩

theorem ldImm (x : Reg) (nn : Byte) : Statement (.ldImm x nn) :=
  ⟨⟨"LD_VX__NN", 0xF000, 0x6000⟩, by decide, rfl,
    beq_iff_eq.mpr (and_F000 0x6 _ (fieldT_formatXNN 0x6 x nn))⟩

theorem addImm (x : Reg) (nn : Byte) : Statement (.addImm x nn) :=
  ⟨⟨"ADD_VX__NN", 0xF000, 0x7000⟩, by decide, rfl,
    beq_iff_eq.mpr (and_F000 0x7 _ (fieldT_formatXNN 0x7 x nn))⟩

theorem ldReg (x y : Reg) : Statement (.ldReg x y) :=
  ⟨⟨"LD_VX__VY", 0xF00F, 0x8000⟩, by decide, rfl,
    beq_iff_eq.mpr (and_F00F 0x8 0x0 _ (fieldT_formatXYN 0x8 x y 0x0) (fieldN_formatXYN 0x8 x y 0x0))⟩

theorem orReg (x y : Reg) : Statement (.orReg x y) :=
  ⟨⟨"OR_VX__VY", 0xF00F, 0x8001⟩, by decide, rfl,
    beq_iff_eq.mpr (and_F00F 0x8 0x1 _ (fieldT_formatXYN 0x8 x y 0x1) (fieldN_formatXYN 0x8 x y 0x1))⟩

theorem andReg (x y : Reg) : Statement (.andReg x y) :=
  ⟨⟨"AND_VX__VY", 0xF00F, 0x8002⟩, by decide, rfl,
    beq_iff_eq.mpr (and_F00F 0x8 0x2 _ (fieldT_formatXYN 0x8 x y 0x2) (fieldN_formatXYN 0x8 x y 0x2))⟩

theorem xorReg (x y : Reg) : Statement (.xorReg x y) :=
  ⟨⟨"XOR_VX__VY", 0xF00F, 0x8003⟩, by decide, rfl,
    beq_iff_eq.mpr (and_F00F 0x8 0x3 _ (fieldT_formatXYN 0x8 x y 0x3) (fieldN_formatXYN 0x8 x y 0x3))⟩

theorem addReg (x y : Reg) : Statement (.addReg x y) :=
  ⟨⟨"ADD_VX__VY", 0xF00F, 0x8004⟩, by decide, rfl,
    beq_iff_eq.mpr (and_F00F 0x8 0x4 _ (fieldT_formatXYN 0x8 x y 0x4) (fieldN_formatXYN 0x8 x y 0x4))⟩

theorem subReg (x y : Reg) : Statement (.subReg x y) :=
  ⟨⟨"SUB_VX__VY", 0xF00F, 0x8005⟩, by decide, rfl,
    beq_iff_eq.mpr (and_F00F 0x8 0x5 _ (fieldT_formatXYN 0x8 x y 0x5) (fieldN_formatXYN 0x8 x y 0x5))⟩

theorem shr (x y : Reg) : Statement (.shr x y) :=
  ⟨⟨"SHR_VX", 0xF00F, 0x8006⟩, by decide, rfl,
    beq_iff_eq.mpr (and_F00F 0x8 0x6 _ (fieldT_formatXYN 0x8 x y 0x6) (fieldN_formatXYN 0x8 x y 0x6))⟩

theorem subnReg (x y : Reg) : Statement (.subnReg x y) :=
  ⟨⟨"SUBN_VX__VY", 0xF00F, 0x8007⟩, by decide, rfl,
    beq_iff_eq.mpr (and_F00F 0x8 0x7 _ (fieldT_formatXYN 0x8 x y 0x7) (fieldN_formatXYN 0x8 x y 0x7))⟩

theorem shl (x y : Reg) : Statement (.shl x y) :=
  ⟨⟨"SHL_VX", 0xF00F, 0x800E⟩, by decide, rfl,
    beq_iff_eq.mpr (and_F00F 0x8 0xE _ (fieldT_formatXYN 0x8 x y 0xE) (fieldN_formatXYN 0x8 x y 0xE))⟩

theorem sneReg (x y : Reg) : Statement (.sneReg x y) :=
  ⟨⟨"SNE_VX__VY", 0xF00F, 0x9000⟩, by decide, rfl,
    beq_iff_eq.mpr (and_F00F 0x9 0x0 _ (fieldT_formatXYN 0x9 x y 0x0) (fieldN_formatXYN 0x9 x y 0x0))⟩

theorem ldI (nnn : Addr12) : Statement (.ldI nnn) :=
  ⟨⟨"LD_I__NNN", 0xF000, 0xA000⟩, by decide, rfl,
    beq_iff_eq.mpr (and_F000 0xA _ (fieldT_formatNNN 0xA nnn))⟩

theorem jpV0 (nnn : Addr12) : Statement (.jpV0 nnn) :=
  ⟨⟨"JP_V0__NNN", 0xF000, 0xB000⟩, by decide, rfl,
    beq_iff_eq.mpr (and_F000 0xB _ (fieldT_formatNNN 0xB nnn))⟩

theorem rnd (x : Reg) (nn : Byte) : Statement (.rnd x nn) :=
  ⟨⟨"RND_VX__NN", 0xF000, 0xC000⟩, by decide, rfl,
    beq_iff_eq.mpr (and_F000 0xC _ (fieldT_formatXNN 0xC x nn))⟩

theorem drw (x y : Reg) (n : Nibble) : Statement (.drw x y n) :=
  ⟨⟨"DRW_VX__VY__N", 0xF000, 0xD000⟩, by decide, rfl,
    beq_iff_eq.mpr (and_F000 0xD _ (fieldT_formatXYN 0xD x y n))⟩

theorem skp (x : Reg) : Statement (.skp x) :=
  ⟨⟨"SKP_VX", 0xF0FF, 0xE09E⟩, by decide, rfl,
    beq_iff_eq.mpr (and_F0FF 0xE 0x9E _ (fieldT_formatXNN 0xE x 0x9E) (fieldNN_formatXNN 0xE x 0x9E))⟩

theorem sknp (x : Reg) : Statement (.sknp x) :=
  ⟨⟨"SKNP_VX", 0xF0FF, 0xE0A1⟩, by decide, rfl,
    beq_iff_eq.mpr (and_F0FF 0xE 0xA1 _ (fieldT_formatXNN 0xE x 0xA1) (fieldNN_formatXNN 0xE x 0xA1))⟩

theorem ldVxDt (x : Reg) : Statement (.ldVxDt x) :=
  ⟨⟨"LD_VX__DT", 0xF0FF, 0xF007⟩, by decide, rfl,
    beq_iff_eq.mpr (and_F0FF 0xF 0x07 _ (fieldT_formatXNN 0xF x 0x07) (fieldNN_formatXNN 0xF x 0x07))⟩

theorem ldVxK (x : Reg) : Statement (.ldVxK x) :=
  ⟨⟨"LD_VX__K", 0xF0FF, 0xF00A⟩, by decide, rfl,
    beq_iff_eq.mpr (and_F0FF 0xF 0x0A _ (fieldT_formatXNN 0xF x 0x0A) (fieldNN_formatXNN 0xF x 0x0A))⟩

theorem ldDtVx (x : Reg) : Statement (.ldDtVx x) :=
  ⟨⟨"LD_DT__VX", 0xF0FF, 0xF015⟩, by decide, rfl,
    beq_iff_eq.mpr (and_F0FF 0xF 0x15 _ (fieldT_formatXNN 0xF x 0x15) (fieldNN_formatXNN 0xF x 0x15))⟩

theorem ldStVx (x : Reg) : Statement (.ldStVx x) :=
  ⟨⟨"LD_ST__VX", 0xF0FF, 0xF018⟩, by decide, rfl,
    beq_iff_eq.mpr (and_F0FF 0xF 0x18 _ (fieldT_formatXNN 0xF x 0x18) (fieldNN_formatXNN 0xF x 0x18))⟩

theorem addI (x : Reg) : Statement (.addI x) :=
  ⟨⟨"ADD_I__VX", 0xF0FF, 0xF01E⟩, by decide, rfl,
    beq_iff_eq.mpr (and_F0FF 0xF 0x1E _ (fieldT_formatXNN 0xF x 0x1E) (fieldNN_formatXNN 0xF x 0x1E))⟩

theorem ldF (x : Reg) : Statement (.ldF x) :=
  ⟨⟨"LD_F__VX", 0xF0FF, 0xF029⟩, by decide, rfl,
    beq_iff_eq.mpr (and_F0FF 0xF 0x29 _ (fieldT_formatXNN 0xF x 0x29) (fieldNN_formatXNN 0xF x 0x29))⟩

theorem ldB (x : Reg) : Statement (.ldB x) :=
  ⟨⟨"LD_B__VX", 0xF0FF, 0xF033⟩, by decide, rfl,
    beq_iff_eq.mpr (and_F0FF 0xF 0x33 _ (fieldT_formatXNN 0xF x 0x33) (fieldNN_formatXNN 0xF x 0x33))⟩

theorem dumpRegs (x : Reg) : Statement (.dumpRegs x) :=
  ⟨⟨"LD__I___VX", 0xF0FF, 0xF055⟩, by decide, rfl,
    beq_iff_eq.mpr (and_F0FF 0xF 0x55 _ (fieldT_formatXNN 0xF x 0x55) (fieldNN_formatXNN 0xF x 0x55))⟩

theorem loadRegs (x : Reg) : Statement (.loadRegs x) :=
  ⟨⟨"LD_VX___I", 0xF0FF, 0xF065⟩, by decide, rfl,
    beq_iff_eq.mpr (and_F0FF 0xF 0x65 _ (fieldT_formatXNN 0xF x 0x65) (fieldNN_formatXNN 0xF x 0x65))⟩

end Sys2Proof.Laws.Row
end

