-- ==== Sys2Proof/Tests/Slice0.lean ====
section
/-! SUPPORT. The model's own tests. Every expected value is copied from the worked vectors of
95_test_vectors.md (part 1, part 2) or written out by hand from the rule named; and, for every
obligation with hypotheses, a witness that meets them. -/

namespace Sys2Proof.Tests

-- one theorem after another: a test evaluates in the kernel, and many at once need much memory
set_option Elab.async false

open Sys2Proof Sys2Proof.Machine

/-! ### Helpers -/

/-- The reset state with some V registers set. -/
def regs (l : List (Reg × Byte)) : State := l.foldl (fun s p => s.setReg p.1 p.2) State.reset

/-- The next state of a step, or a state with a `PC` that no test expects. -/
def nextOf (o : Result) (s : State) : State :=
  match o with
  | .next t => t
  | .fault _ => { s with pc := 0xFFFF }
  | .refused _ => { s with pc := 0xFFFF }

/-- One Cycle with the word `op` placed at the fetch address. -/
def after (op : Nat) (s : State) : State := nextOf (step (s.withFetchWord 16 op)) s

/-- One event of the host. -/
def event (e : Event) (s : State) : State := nextOf (step { s with inputs := [e] }) s

/-- The reset state with bytes stored at an address. -/
def poke (a : Nat) (bs : List Byte) (s : State) : State := { s with mem := writeBytes s.mem a bs }

/-! ### Which words are well formed: one ill-formed term for each check (R94, R96) -/

theorem test_wellformed_refuses_top0 : legalWord 0x0123 = false := by decide
theorem test_wellformed_refuses_top5 : legalWord 0x5121 = false := by decide
theorem test_wellformed_refuses_top8 : legalWord 0x8128 = false := by decide
theorem test_wellformed_refuses_top9 : legalWord 0x9121 = false := by decide
theorem test_wellformed_refuses_topE : legalWord 0xE19F = false := by decide
theorem test_wellformed_refuses_topF : legalWord 0xF1FF = false := by decide
theorem test_wellformed_refuses_one_byte : legalBytes [0x00] = false := by decide
theorem test_wellformed_refuses_three_bytes : legalBytes [0x00, 0xE0, 0x00] = false := by decide
theorem test_wellformed_refuses_swapped_bytes : legalBytes [0xE0, 0x00] = false := by decide

/-- The legal words "that a reader might think illegal" (part 2). -/
theorem test_wellformed_accepts :
    [0xF165, 0xFF55, 0x8120, 0x5000, 0x9FF0, 0xD000].all legalWord = true := by decide

/-! ### Decoding: every constructor, by a word written out from R91 and R94 -/

theorem test_decode_no_operands :
    decode 0b0000000011100000 = .instr .cls ∧ decode 0b0000000011101110 = .instr .ret := by decide

theorem test_decode_address_forms :
    decode 0b0001001000000100 = .instr (.jp 0x204) ∧
    decode 0b0010001000010000 = .instr (.call 0x210) ∧
    decode 0b1010001100000000 = .instr (.ldI 0x300) ∧
    decode 0b1011001011111111 = .instr (.jpV0 0x2FF) := by decide

theorem test_decode_immediate_forms :
    decode 0b0011111111111111 = .instr (.seImm 15 0xFF) ∧
    decode 0b0100101000000111 = .instr (.sneImm 10 0x07) ∧
    decode 0b0110000100000101 = .instr (.ldImm 1 0x05) ∧
    decode 0b0111000100000010 = .instr (.addImm 1 0x02) ∧
    decode 0b1100000100001111 = .instr (.rnd 1 0x0F) := by decide

theorem test_decode_register_forms :
    decode 0b0101000100100000 = .instr (.seReg 1 2) ∧
    decode 0b1001000100100000 = .instr (.sneReg 1 2) ∧
    decode 0b1000000100100000 = .instr (.ldReg 1 2) ∧
    decode 0b1000000100100001 = .instr (.orReg 1 2) ∧
    decode 0b1000000100100010 = .instr (.andReg 1 2) ∧
    decode 0b1000000100100011 = .instr (.xorReg 1 2) := by decide

theorem test_decode_flag_forms :
    decode 0b1000000100100100 = .instr (.addReg 1 2) ∧
    decode 0b1000000100100101 = .instr (.subReg 1 2) ∧
    decode 0b1000000100100110 = .instr (.shr 1 2) ∧
    decode 0b1000000100100111 = .instr (.subnReg 1 2) ∧
    decode 0b1000000100101110 = .instr (.shl 1 2) := by decide

theorem test_decode_draw : decode 0b1101111100010101 = .instr (.drw 15 1 5) := by decide

theorem test_decode_key_forms :
    decode 0b1110000110011110 = .instr (.skp 1) ∧
    decode 0b1110000110100001 = .instr (.sknp 1) ∧
    decode 0b1111000100001010 = .instr (.ldVxK 1) := by decide

theorem test_decode_timer_forms :
    decode 0b1111001000000111 = .instr (.ldVxDt 2) ∧
    decode 0b1111000000010101 = .instr (.ldDtVx 0) ∧
    decode 0b1111001100011000 = .instr (.ldStVx 3) := by decide

theorem test_decode_index_forms :
    decode 0b1111111100011110 = .instr (.addI 15) ∧
    decode 0b1111001000101001 = .instr (.ldF 2) ∧
    decode 0b1111000000110011 = .instr (.ldB 0) ∧
    decode 0b1111001001010101 = .instr (.dumpRegs 2) ∧
    decode 0b1111001001100101 = .instr (.loadRegs 2) := by decide

/-- The illegal words of part 2. -/
theorem test_decode_refuses :
    [0x0000, 0x00E1, 0x00EF, 0x0123, 0x0FFF, 0x5121, 0x512F, 0x8128, 0x8129, 0x812D, 0x812F,
      0x9121, 0xE19F, 0xE100, 0xE1A0, 0xF100, 0xF108, 0xF11F, 0xF156, 0xF1FF].all
      (fun op => decode op == .decodeError op) = true := by decide

theorem test_decode_bytes_are_big_endian :
    decodeBytes [0x12, 0x34] = .word (.instr (.jp 0x234)) ∧
    decodeBytes [0x12] = .notOneWord ∧ decodeTableWord 16 0x2210 = some (.call 0x210) ∧
    decodeTableWord 16 0x5121 = none := by decide

/-! ### Control transfer (part 2) -/

theorem test_jp : (after 0x1204 { State.reset with pc := 0x20A }).pc = 0x204 := by decide +kernel

theorem test_call :
    let t := after 0x2210 { State.reset with pc := 0x204 }
    t.stack[0] = 0x0206 ∧ t.sp = 1 ∧ t.pc = 0x210 := by decide +kernel

theorem test_call_overflow :
    let t := after 0x2300 { State.reset with sp := 16 }
    t.fault = some ⟨.stackOverflow, 0x0200⟩ ∧ t.sp = 16 ∧ t.pc = 0x200 := by decide +kernel

theorem test_ret :
    let t := after 0x00EE { State.reset with pc := 0x212, sp := 1, stack := State.reset.stack.set 0 0x0206 }
    t.sp = 0 ∧ t.pc = 0x206 := by decide +kernel

theorem test_ret_underflow :
    let t := after 0x00EE State.reset
    t.fault = some ⟨.stackUnderflow, 0x0200⟩ ∧ t.pc = 0x200 ∧ t.sp = 0 := by decide +kernel

theorem test_se_imm :
    (after 0x3100 (regs [(1, 0x00)])).pc = 0x204 ∧ (after 0x3100 (regs [(1, 0x04)])).pc = 0x202 := by
  decide +kernel

theorem test_sne_imm :
    (after 0x4A07 (regs [(10, 0x07)])).pc = 0x202 ∧ (after 0x4A07 (regs [(10, 0x08)])).pc = 0x204 := by
  decide +kernel

theorem test_se_reg :
    (after 0x5120 (regs [(1, 0x33), (2, 0x33)])).pc = 0x204 ∧
    (after 0x5120 (regs [(1, 0x33), (2, 0x34)])).pc = 0x202 := by decide +kernel

theorem test_sne_reg :
    (after 0x9120 (regs [(1, 0x01), (2, 0x02)])).pc = 0x204 ∧
    (after 0x9120 (regs [(1, 0x02), (2, 0x02)])).pc = 0x202 := by decide +kernel

theorem test_jp_v0 :
    (after 0xB2FF (regs [(0, 0x02)])).pc = 0x301 ∧ (after 0xBFFF (regs [(0, 0xFF)])).pc = 0x10FE := by
  decide +kernel

/-! ### Arithmetic and logic (part 1 S1, S2, S10; part 2) -/

/-- V1, VF and `PC` after one instruction. -/
def v1vf (op : Nat) (l : List (Reg × Byte)) : Byte × Byte × Word :=
  ((after op (regs l)).reg 1, (after op (regs l)).reg 15, (after op (regs l)).pc)

theorem test_ld_imm : v1vf 0x6105 [] = (0x05, 0x00, 0x202) := by decide +kernel
theorem test_add_imm_wraps : v1vf 0x7102 [(1, 0xFF), (15, 0xAA)] = (0x01, 0xAA, 0x202) := by
  decide +kernel
theorem test_add_imm_vf : (after 0x7F01 (regs [(15, 0xFF)])).reg 15 = 0x00 := by decide +kernel
theorem test_ld_reg : v1vf 0x8120 [(1, 0x12), (2, 0x34), (15, 0xAA)] = (0x34, 0xAA, 0x202) := by
  decide +kernel
theorem test_or : v1vf 0x8121 [(1, 0xF0), (2, 0x0F), (15, 0xAA)] = (0xFF, 0xAA, 0x202) := by
  decide +kernel
theorem test_and : v1vf 0x8122 [(1, 0xF0), (2, 0x3C), (15, 0xAA)] = (0x30, 0xAA, 0x202) := by
  decide +kernel
theorem test_xor : v1vf 0x8123 [(1, 0xFF), (2, 0x0F), (15, 0xAA)] = (0xF0, 0xAA, 0x202) := by
  decide +kernel
theorem test_add_carry : v1vf 0x8124 [(1, 0xFF), (2, 0x01)] = (0x00, 0x01, 0x202) := by
  decide +kernel
theorem test_add_vf_both_ways :
    (after 0x8F24 (regs [(15, 0xFF), (2, 0x02)])).reg 15 = 0x01 ∧
    v1vf 0x81F4 [(1, 0xFF), (15, 0x02)] = (0x01, 0x01, 0x202) := by decide +kernel
theorem test_sub_borrow : v1vf 0x8125 [(1, 0x01), (2, 0x02), (15, 0x01)] = (0xFF, 0x00, 0x202) := by
  decide +kernel
theorem test_sub_equal : v1vf 0x8125 [(1, 0x05), (2, 0x05)] = (0x00, 0x01, 0x202) := by
  decide +kernel
theorem test_shr_ignores_vy : v1vf 0x8126 [(1, 0xFE), (2, 0x01)] = (0x7F, 0x00, 0x202) := by
  decide +kernel
theorem test_shr_vf : (after 0x8F26 (regs [(15, 0x03)])).reg 15 = 0x01 := by decide +kernel
theorem test_subn : v1vf 0x8127 [(1, 0x02), (2, 0x01)] = (0xFF, 0x00, 0x202) := by decide +kernel
theorem test_subn_source_vf : v1vf 0x81F7 [(1, 0x01), (15, 0x02)] = (0x01, 0x01, 0x202) := by
  decide +kernel
theorem test_shl : v1vf 0x812E [(1, 0x81)] = (0x02, 0x01, 0x202) := by decide +kernel

theorem test_rnd :
    (event (.cycle 0xA7) (poke 0x200 [0xC1, 0x0F] State.reset)).reg 1 = 0x07 ∧
    (event (.cycle 0x3C) (poke 0x200 [0xCF, 0x0F] State.reset)).reg 15 = 0x0C := by decide +kernel

/-! ### Index register and memory (part 2) -/

/-- The reset state with `I` set. -/
def atI (i : Word) (l : List (Reg × Byte)) : State := { regs l with i := i }

theorem test_ld_i : (after 0xAFFF State.reset).i = 0x0FFF := by decide +kernel
theorem test_add_i_edge :
    let t := after 0xF01E (atI 0x0FFF [(0, 0x01)])
    let u := after 0xF01E (atI 0x0FFF [(15, 0x01)])
    t.i = 0x1000 ∧ t.reg 15 = 0x01 ∧ u.i = 0x0FFF ∧ u.reg 15 = 0x00 := by decide +kernel
theorem test_add_i_of_vf :
    let t := after 0xFF1E (atI 0x0FF0 [(15, 0x20)])
    t.i = 0x1010 ∧ t.reg 15 = 0x01 := by decide +kernel
theorem test_ld_f : (after 0xF029 (regs [(0, 0x1A)])).i = 0x0032 := by decide +kernel

theorem test_bcd :
    let t := after 0xF033 (atI 0xFFD [(0, 0xFF)])
    readBytes t.mem 0xFFD 3 = [0x02, 0x05, 0x05] ∧ t.pc = 0x202 := by decide +kernel
theorem test_bcd_out_of_range :
    let t := after 0xF033 (atI 0xFFE [(0, 0xFF)])
    t.fault = some ⟨.memoryFault, 0x1000⟩ ∧ t.pc = 0x200 ∧ readBytes t.mem 0xFFD 3 = [0, 0, 0] := by
  decide +kernel

theorem test_dump :
    let t := after 0xF255 (atI 0x400 [(0, 1), (2, 3), (15, 0xAB)])
    readBytes t.mem 0x3FF 18 = [0, 1, 0, 3] ++ List.replicate 12 0 ++ [0xAB, 0] ∧ t.i = 0x400 := by
  decide +kernel
theorem test_dump_out_of_range :
    (after 0xF055 (atI 0xFF1 [])).fault = some ⟨.memoryFault, 0x1000⟩ := by decide +kernel
theorem test_load_font :
    let t := after 0xF065 (atI 0x000 [])
    t.v.toList = [0xF0, 0x90, 0x90, 0x90, 0xF0] ++ [0x20, 0x60, 0x20, 0x20, 0x70] ++
      [0xF0, 0x10, 0xF0, 0x80, 0xF0] ++ [0xF0] := by decide +kernel
theorem test_load_out_of_range :
    (after 0xF065 (atI 0xFF1 [])).fault = some ⟨.memoryFault, 0x1000⟩ := by decide +kernel

/-! ### Keypad and timers (part 2) -/

/-- The reset state with key 7 pressed. -/
def key7 (l : List (Reg × Byte)) : State := { regs l with keys := State.reset.keys.set 7 true }

theorem test_skp :
    (after 0xE19E (key7 [(1, 0x17)])).pc = 0x204 ∧ (after 0xE19E (regs [(1, 0x07)])).pc = 0x202 := by
  decide +kernel
theorem test_sknp :
    (after 0xE1A1 (key7 [(1, 0x07)])).pc = 0x202 ∧ (after 0xE1A1 (regs [(1, 0x07)])).pc = 0x204 := by
  decide +kernel
theorem test_ld_vx_dt : (after 0xF207 { State.reset with dt := 0x07 }).reg 2 = 0x07 := by
  decide +kernel
theorem test_ld_dt_vx : (after 0xF015 (regs [(0, 0x0A)])).dt = 0x0A := by decide +kernel
theorem test_ld_st_vx :
    let t := after 0xF318 (regs [(3, 0x02)])
    t.st = 0x02 ∧ t.soundActive = true := by decide +kernel
theorem test_ld_vx_k :
    let t := after 0xF10A { State.reset with pc := 0x204 }
    t.wait = true ∧ t.waitReg = 1 ∧ t.pc = 0x206 ∧ t.reg 1 = 0x00 := by decide +kernel

/-- A block that waits for a key for V1. -/
def waitingV1 : State := { State.reset with wait := true, waitReg := 1, pc := 0x206 }

theorem test_set_key_ends_wait :
    let t := event (.setKey 7 true) waitingV1
    t.keys[7] = true ∧ t.reg 1 = 0x07 ∧ t.wait = false ∧ t.pc = 0x206 := by decide +kernel
theorem test_release_keeps_wait :
    let t := event (.setKey 7 false) { key7 [] with wait := true, waitReg := 1 }
    t.keys[7] = false ∧ t.wait = true ∧ t.reg 1 = 0x00 := by decide +kernel
theorem test_set_key_out_of_range :
    (event (.setKey 16 true) State.reset).reply = .inputOutOfRange ∧
    (event (.setKey 16 true) State.reset).keys = State.reset.keys := by decide +kernel
theorem test_tick :
    let t := event .tick { State.reset with dt := 0xFF, st := 0x00 }
    t.dt = 0xFE ∧ t.st = 0x00 := by decide +kernel

/-! ### Display (part 2) -/

/-- The reset state with one row of pixels on. -/
def withRow (y : Row) (r : BitVec 64) (s : State) : State := { s with fb := s.fb.set y.val r }

theorem test_cls :
    let t := after 0x00E0 (withRow 31 0xFF (regs [(15, 0x01)]))
    t.fb = blankFrame ∧ t.dirty = true ∧ t.reg 15 = 0x01 := by decide +kernel

/-- Two rows that wrap on both edges: columns 62, 63, 4, 5 of row 31 and 62, 5 of row 0; and, over
pixels 0 to 3 on, sprite 0x90 turns 0 and 3 off. -/
theorem test_drw_wraps_and_collides :
    let t := after 0xD012 (poke 0x300 [0xC3, 0x81] (atI 0x300 [(0, 0x3E), (1, 0x1F)]))
    let u := after 0xD011 (poke 0x300 [0x90] (withRow 0 0xF (atI 0x300 [])))
    t.fb[31] = 0xC000000000000030 ∧ t.fb[0] = 0x4000000000000020 ∧ t.fb[1] = 0 ∧ t.reg 15 = 0x00 ∧
    t.dirty = true ∧ u.fb[0] = 0x6 ∧ u.reg 15 = 0x01 := by decide +kernel
/-- With `I = 0x1000`: no row reads nothing, one row faults. -/
theorem test_drw_range :
    let t := after 0xD010 (atI 0x1000 [(15, 0x01)])
    let u := after 0xD011 (atI 0x1000 [(15, 0x01)])
    t.fault = none ∧ t.reg 15 = 0x00 ∧ t.dirty = true ∧
    u.fault = some ⟨.memoryFault, 0x1000⟩ ∧ u.dirty = false ∧ u.reg 15 = 0x01 ∧ u.pc = 0x200 := by
  decide +kernel

/-! ### Fetch, events and faults at the step level (parts 1 and 2) -/

theorem test_unloaded_memory_faults :
    let t := event (.cycle 0x00) State.reset
    t.fault = some ⟨.decodeError, 0x0000⟩ ∧ t.pc = 0x200 := by decide +kernel
theorem test_fetch_at_FFE :
    (event (.cycle 0x00) { State.reset with pc := 0xFFE }).fault = some ⟨.decodeError, 0x0000⟩ := by
  decide +kernel
theorem test_fetch_at_FFF :
    (event (.cycle 0x00) { State.reset with pc := 0xFFF }).fault = some ⟨.memoryFault, 0x1000⟩ ∧
    (event (.cycle 0x00) { State.reset with pc := 0x10FE }).fault = some ⟨.memoryFault, 0x10FE⟩ := by
  decide +kernel
theorem test_odd_pc :
    let t := event (.cycle 0x00) (poke 0x201 [0x61, 0x05] { State.reset with pc := 0x201 })
    t.reg 1 = 0x05 ∧ t.pc = 0x203 := by decide +kernel

/-- The reset state after a stack overflow at 0x200. -/
def faulted : State := { State.reset with fault := some ⟨.stackOverflow, 0x200⟩, dt := 5 }

theorem test_cycle_after_fault : event (.cycle 0x00) faulted = faulted := by decide +kernel
theorem test_tick_after_fault :
    event .tick faulted = { faulted with dt := 4 } := by decide +kernel
theorem test_cycle_while_waiting : event (.cycle 0x00) waitingV1 = waitingV1 := by decide +kernel

theorem test_load :
    let t := event (.load [0xAA, 0xBB, 0xCC]) State.reset
    t.mem = [(0x200, 0xAA), (0x201, 0xBB), (0x202, 0xCC)] ∧ t.reply = .ok := by decide +kernel
theorem test_load_too_large :
    let t := event (.load (List.replicate 3233 0x5A)) State.reset
    t.mem = [] ∧ t.reply = .loadTooLarge ∧ t.fault = none := by decide +kernel

theorem test_snapshot_and_ack_frame :
    (event .snapshot (withRow 3 0x80 State.reset)).reply = .frame (State.reset.fb.set 3 0x80) ∧
    (event .ackFrame { State.reset with dirty := true }).dirty = false := by decide +kernel
theorem test_reset_event : event .reset faulted = State.reset := by decide +kernel

/-- Writing what an address holds at reset takes its entry away. -/
theorem test_memory_is_canonical :
    writeBytes (writeBytes [] 0 [0x11, 0x22]) 0 [0xF0] = [(1, 0x22)] := by decide

/-! ### Witnesses: a state and operands that meet the hypotheses of each obligation that has some -/

/-- 0xFFE is the last address a fetch can start at. -/
def lastFetch : State := poke 0xFFE [0x61, 0x05] { State.reset with pc := 0xFFE }

theorem witness_StepRunsDecodedInstruction :
    (NextIsCycle lastFetch ∧ NextIsCycle { lastFetch with inputs := [.cycle 0x07, .tick] }) ∧
    lastFetch.fault = none ∧ lastFetch.wait = false ∧ lastFetch.pc.toNat ≤ 0xFFE ∧
    decode (wordOfBytes (readByte lastFetch.mem lastFetch.pc.toNat)
      (readByte lastFetch.mem (lastFetch.pc.toNat + 1))) = .instr (.ldImm 1 0x05) :=
  ⟨⟨.inl rfl, .inr ⟨_, _, rfl⟩⟩, by decide +kernel⟩

theorem witness_HaltedOrWaitingCycleChangesNothing :
    (NextIsCycle faulted ∧ faulted.fault ≠ none) ∧ (NextIsCycle waitingV1 ∧ waitingV1.wait = true) :=
  ⟨⟨.inl rfl, by decide⟩, .inl rfl, by decide⟩

/-- A state whose next Cycle fetches at `pc`. -/
def fetchingAt (pc : Word) : State := { State.reset with pc := pc }

theorem witness_FetchBeyondMemoryRaisesMemoryFault (pc : Word) (h : pc = 0xFFF ∨ pc = 0x10FE) :
    0xFFE < (fetchingAt pc).pc.toNat ∧ NextIsCycle (fetchingAt pc) ∧ (fetchingAt pc).fault = none ∧
    (fetchingAt pc).wait = false := by
  rcases h with rfl | rfl <;> exact ⟨by decide, .inl rfl, rfl, rfl⟩

theorem witness_IllegalWordRaisesDecodeError :
    (fetchingAt 0xFFE).pc.toNat ≤ 0xFFE ∧
    (0x0000 : Word) = wordOfBytes (readByte (fetchingAt 0xFFE).mem (fetchingAt 0xFFE).pc.toNat)
      (readByte (fetchingAt 0xFFE).mem ((fetchingAt 0xFFE).pc.toNat + 1)) ∧
    (∀ i, decode 0x0000 ≠ .instr i) ∧ NextIsCycle (fetchingAt 0xFFE) ∧
    (fetchingAt 0xFFE).fault = none ∧ (fetchingAt 0xFFE).wait = false := by
  refine ⟨by decide, by decide +kernel, fun i h => ?_, .inl rfl, rfl, rfl⟩
  have h0 : decode 0x0000 = .decodeError 0x0000 := rfl
  rw [h0] at h
  cases h

theorem witness_FetchIsBigEndian : lastFetch.pc.toNat ≤ 0xFFE := by decide

/-- The reset state with one event scheduled. -/
def scheduled (e : Event) : State := { State.reset with inputs := [e] }

theorem witness_LoadCopiesOrRefusesWhole :
    (scheduled (.load (List.replicate 3232 0x5A))).inputs = .load (List.replicate 3232 0x5A) :: [] ∧
    (List.replicate 3232 (0x5A : Byte)).length ≤ 3232 ∧
    (scheduled (.load (List.replicate 3233 0x5A))).inputs = .load (List.replicate 3233 0x5A) :: [] ∧
    3232 < (List.replicate 3233 (0x5A : Byte)).length := by
  refine ⟨rfl, List.length_replicate.le, rfl, ?_⟩
  rw [List.length_replicate]
  decide

theorem witness_TickDecrementsEachTimer : (scheduled .tick).inputs = .tick :: [] := rfl

/-- A waiting block with a key event scheduled. -/
def waitingFor (index : Nat) (pressed : Bool) : State :=
  { waitingV1 with inputs := [.setKey index pressed] }

theorem witness_SetKeyRecordsAndWakes :
    ((waitingFor 15 true).inputs = .setKey 15 true :: [] ∧ 15 ≤ 15 ∧ (waitingFor 15 true).wait = true) ∧
    ((waitingFor 0 false).inputs = .setKey 0 false :: [] ∧ 0 ≤ 15 ∧ (waitingFor 0 false).wait = true) ∧
    ((scheduled (.setKey 15 true)).inputs = .setKey 15 true :: [] ∧
      (scheduled (.setKey 15 true)).wait = false) ∧
    ((waitingFor 16 true).inputs = .setKey 16 true :: [] ∧ 15 < 16) := by
  refine ⟨⟨rfl, ?_, rfl⟩, ⟨rfl, ?_, rfl⟩, ⟨rfl, rfl⟩, rfl, ?_⟩ <;> decide

theorem witness_SnapshotReturnsPixels : (scheduled .snapshot).inputs = .snapshot :: [] := rfl
theorem witness_AckFrameClearsDirty :
    ({ scheduled .ackFrame with dirty := true } : State).inputs = .ackFrame :: [] := rfl
theorem witness_ResetEventGivesResetState :
    ({ faulted with inputs := [.reset] } : State).inputs = .reset :: [] := rfl

theorem witness_PlacedWordRunsNext : decodeTableWord 16 0xD012 = some (.drw 0 1 2) := by decide

theorem witness_DecoderAgreesWithOpcodeTable :
    (∃ r ∈ opcodeTable, r.selects 0xF165 = true) ∧ legalWord 0xF166 = false := by
  refine ⟨⟨⟨"LD_VX___I", 0xF0FF, 0xF065⟩, ?_, ?_⟩, ?_⟩ <;> decide

theorem witness_OpcodeRowsAreDisjoint :
    (⟨"SHR_VX", 0xF00F, 0x8006⟩ : OpRow) ∈ opcodeTable ∧
    (⟨"SHR_VX", 0xF00F, 0x8006⟩ : OpRow).selects 0x8126 = true := by decide

/-- A full stack whose newest entry is the return address of a call at 0x0FFE. -/
def fullStack : State := { State.reset with sp := 16, stack := Vector.replicate 16 0x1000 }

theorem witness_RetPopsOrUnderflows :
    (0 < fullStack.sp.val ∧ fullStack.stack[fullStack.sp.val - 1]? = some 0x1000) ∧
    State.reset.sp.val = 0 := by decide

theorem witness_RetPops1000_next_cycle_fetches :
    ∃ t, exec .ret fullStack = .next t ∧ t.pc = 0x1000 ∧ NextIsCycle t ∧ t.fault = none ∧ t.wait = false :=
  ⟨_, rfl, rfl, .inl rfl, rfl, rfl⟩

theorem witness_JumpSetsPc :
    (0x200 : Addr12).toNat = State.reset.pc.toNat ∧
    ∃ t, exec (.jp 0xFFF) State.reset = .next t ∧ NextIsCycle t ∧ t.fault = none ∧ t.wait = false :=
  ⟨by decide, _, rfl, .inl rfl, rfl, rfl⟩

theorem witness_CallPushesReturnAddress :
    ({ State.reset with sp := 15 } : State).sp.val < 16 ∧ fullStack.sp.val = 16 := by decide

theorem witness_RetAfterCallComesBack (nnn : Addr12) :
    ∃ t, exec (.call nnn) { State.reset with sp := 15 } = .next t ∧
      t.sp = t.sp ∧ ∀ j, j < t.sp.val → t.stack[j]? = t.stack[j]? :=
  ⟨_, rfl, rfl, fun _ _ => rfl⟩

theorem witness_SkipsOnRegisters : (1 : Nibble) ≠ 0 ∧ (15 : Nibble) ≠ 0 := by decide

theorem witness_OffsetJumpSetsPc :
    ∃ t, exec (.jpV0 0xFFF) (regs [(0, 0x00)]) = .next t ∧ 0xFFE < t.pc.toNat ∧ NextIsCycle t ∧
      t.fault = none ∧ t.wait = false :=
  ⟨_, rfl, by decide, .inl rfl, rfl, rfl⟩

/-- For the clauses on a destination other than VF of ADD, SUB, SUBN, SHR and SHL. -/
theorem witness_destination_is_not_vf : (14 : Reg) ≠ VF ∧ (0 : Reg) ≠ VF := by decide

theorem witness_RandomByteIsMasked :
    ({ State.reset with rnd := some 0xA7 } : State).rnd = some 0xA7 := rfl

theorem witness_BcdStoresThreeDigits :
    (atI 0xFFD []).i.toNat + 2 ≤ 0xFFF ∧ 0xFFF < (atI 0xFFE []).i.toNat + 2 := by decide

/-- For FX55 and FX65. -/
theorem witness_DumpStores_LoadFills :
    (atI 0xFF0 []).i.toNat + 15 ≤ 0xFFF ∧ 0xFFF < (atI 0xFF1 []).i.toNat + 15 := by decide

theorem witness_KeySkipsTestLowNibble :
    (key7 [(1, 0xF7)]).keys[((key7 [(1, 0xF7)]).reg 1).toNat % 16]? = some true ∧
    (key7 [(1, 0xFF)]).keys[((key7 [(1, 0xFF)]).reg 1).toNat % 16]? = some false := by decide

theorem witness_DelayTimerMoves :
    ∃ t, exec (.ldDtVx 0) (scheduled .tick) = .next t ∧ t.inputs = .tick :: [] := ⟨_, rfl, rfl⟩

theorem witness_WaitEndsAtKeyPress :
    let es : List Event := [.cycle 0x00, .tick, .setKey 15 false, .setKey 16 true, .load [0x12]]
    let s : State := { waitingV1 with inputs := es ++ .setKey 15 true :: [.snapshot] }
    s.wait = true ∧ s.fault = none ∧ 15 < 16 ∧ s.inputs = es ++ .setKey 15 true :: [.snapshot] ∧
    ∀ e ∈ es, e.keepsWait = true := by decide

/-- In range with one row at the last address and with no row at all, and out of range by one. -/
theorem witness_DrawTogglesSpritePixels :
    ((atI 0x1000 []).i.toNat = 0x1000 ∧ (0 : Nibble) = 0) ∧
    (atI 0xFFF []).i.toNat + (1 : Nibble).toNat - 1 ≤ 0xFFF ∧
    ((2 : Nibble) ≠ 0 ∧ 0xFFF < (atI 0xFFF []).i.toNat + (2 : Nibble).toNat - 1) := by decide

/-- A sprite byte 0x81 at `I`, drawn from column 62. -/
def spriteAt62 : State := poke 0x300 [0x81] (atI 0x300 [(0, 0x3E), (1, 0x1F)])

theorem witness_DrawTogglesSpritePixels_pixels :
    SpriteSets spriteAt62 0 1 1 5 31 ∧ ¬ SpriteSets spriteAt62 0 1 1 5 30 := by
  constructor
  · exact ⟨0, 7, by decide, by decide, by decide +kernel, by decide +kernel, by decide +kernel⟩
  · rintro ⟨r, c, hr, _, _, hy, _⟩
    have h0 : r = 0 := by simpa using hr
    subst h0
    revert hy
    decide +kernel

/-- One pixel that the sprite sets is on, and none is. -/
theorem witness_DrawTogglesSpritePixels_collision :
    (SpriteSets (withRow 31 0x20 spriteAt62) 0 1 1 5 31 ∧
      pixel (withRow 31 0x20 spriteAt62).fb 5 31 = true) ∧
    (∀ px py, SpriteSets spriteAt62 0 1 1 px py → pixel spriteAt62.fb px py = false) :=
  have hoff : ∀ px py, pixel spriteAt62.fb px py = false := by decide +kernel
  ⟨⟨⟨0, 7, by decide, by decide, by decide +kernel, by decide +kernel, by decide +kernel⟩,
    by decide +kernel⟩, fun px py _ => hoff px py⟩

theorem witness_DoubleDrawRestoresFrame :
    spriteAt62.i.toNat + (1 : Nibble).toNat - 1 ≤ 0xFFF ∧
    ∃ t, exec (.drw 0 1 1) spriteAt62 = .next t ∧ t.i = spriteAt62.i ∧
      (∀ r, readByte t.mem r = readByte spriteAt62.mem r) ∧
      (t.reg 0).toNat % 64 = (spriteAt62.reg 0).toNat % 64 ∧
      (t.reg 1).toNat % 32 = (spriteAt62.reg 1).toNat % 32 :=
  ⟨by decide +kernel, _, rfl, rfl, fun _ => rfl, rfl, rfl⟩

theorem witness_PcAfterEveryInstruction :
    State.reset.fault = none ∧ waitingV1.wait = true ∧ (∀ es, waitingV1.inputs ≠ .reset :: es) ∧
    (waitingFor 15 true).wait = true ∧ (∀ es, (waitingFor 15 true).inputs ≠ .reset :: es) :=
  ⟨rfl, rfl, fun _ h => (by cases h), rfl, fun _ h => (by cases h)⟩

/-- VF changes as a flag, and as a named destination. -/
theorem witness_OnlyListedInstructionsChangeVf :
    (∃ t, exec (.addReg 1 2) (regs [(1, 0xFF), (2, 0x01)]) = .next t ∧ t.fault = none ∧
      t.reg VF ≠ (regs [(1, 0xFF), (2, 0x01)]).reg VF ∧ writesFlag (.addReg 1 2) = true) ∧
    ∃ t, exec (.ldImm 15 0x07) State.reset = .next t ∧ t.reg VF ≠ State.reset.reg VF :=
  ⟨⟨_, rfl, rfl, by decide +kernel, rfl⟩, _, rfl, by decide +kernel⟩

/-- Each of the faults an instruction raises by itself. -/
theorem witness_FaultsArePreciseAndListed :
    (∃ t f, exec .ret State.reset = .next t ∧ t.fault = some f) ∧
    (∃ t f, exec (.call 0x300) fullStack = .next t ∧ t.fault = some f) ∧
    (∃ t f, exec (.ldB 0) (atI 0xFFE []) = .next t ∧ t.fault = some f) ∧
    (∃ t f, exec (.dumpRegs 0) (atI 0xFF1 []) = .next t ∧ t.fault = some f) ∧
    (∃ t f, exec (.loadRegs 0) (atI 0xFF1 []) = .next t ∧ t.fault = some f) ∧
    (∃ t f, exec (.drw 0 1 2) (atI 0xFFF []) = .next t ∧ t.fault = some f) :=
  ⟨⟨_, _, rfl, rfl⟩, ⟨_, _, rfl, rfl⟩, ⟨_, _, rfl, rfl⟩, ⟨_, _, rfl, rfl⟩, ⟨_, _, rfl, rfl⟩, _, _, rfl, rfl⟩

theorem witness_OnlyRndReadsTheRandomByte :
    (∀ x nn, Instr.cls ≠ .rnd x nn) ∧ ∃ t, exec .cls State.reset = .next t :=
  ⟨fun _ _ h => (by cases h), _, rfl⟩

/-- Two different states: another value in a dead slot, another `WAIT_REG` with `WAIT = 0`. -/
theorem witness_DeadSlotsAreUnobservable :
    let t : State := { State.reset with stack := State.reset.stack.set 0 0x1234, waitReg := 9 }
    AgreeLive State.reset t ∧ State.reset ≠ t := by
  refine ⟨⟨fun p hp => ?_, rfl, fun j hj => absurd hj (Nat.not_lt_zero _), fun h => by cases h⟩, by decide +kernel⟩
  cases p <;> simp [Part.same, State.reset] at hp ⊢

/-- A state inside one call, with a stored byte, that waits for a key. -/
def insideCall : State :=
  poke 0xFFF [0x01] { waitingV1 with sp := 1, stack := State.reset.stack.set 0 0x0206, pc := 0x10FE }

theorem witness_StepKeepsInvariant : insideCall.Inv ∧ ∃ t, step insideCall = .next t := by
  refine ⟨⟨by decide +kernel, by decide, fun j hj => ?_, by decide⟩, _, rfl⟩
  have h0 : j = 0 := Fin.ext (Nat.lt_one_iff.mp hj)
  subst h0
  decide +kernel

theorem witness_FaultStandsUntilReset :
    let s : State := { faulted with inputs := [.cycle 0x00, .tick, .setKey 7 true, .load [0x12], .reset] }
    s.fault ≠ none ∧ s.wait = false ∧ (∀ e ∈ s.inputs.take 4, e ≠ .reset) ∧
    (∀ e ∈ s.inputs.take 3, ∀ bytes, e ≠ .load bytes) := by
  refine ⟨by decide, rfl, by decide, ?_⟩
  intro e he bytes h
  subst h
  simp at he

theorem witness_JumpToSelfSpins : (poke 0x200 [0x12, 0x00] State.reset).Spinning ∧
    (poke 0x200 [0x12, 0x00] State.reset).inputs = [] ∧
    (poke 0x200 [0x12, 0x00] State.reset).rnd = none :=
  ⟨⟨rfl, rfl, 0x200, rfl, by decide +kernel⟩, rfl, rfl⟩

/-- A blocked state with events that end no wait; the same with the press of key 15 is not blocked. -/
theorem witness_WaitWithoutPressHangs :
    let es : List Event := [.cycle 0x00, .setKey 15 false, .setKey 16 true, .load [0x12]]
    ({ waitingV1 with inputs := es } : State).Blocked ∧
    Event.reset ∉ ({ waitingV1 with inputs := es } : State).inputs ∧
    ¬ ({ waitingV1 with inputs := es ++ [.setKey 15 true] } : State).Blocked := by
  refine ⟨⟨rfl, fun k hk h => ?_⟩, by decide, fun h => h.2 15 (by decide) (by decide)⟩
  simp at h
  omega

/-- FX55 as the last instruction whose store still fits: 16 bytes up to 0xFFF. -/
def storesNext : State := poke 0xFEE [0xF3, 0x55] { State.reset with pc := 0xFEE, i := 0xFF0 }

theorem witness_StoreIsSeenByNextFetch :
    storesNext.fault = none ∧ storesNext.wait = false ∧ NextIsCycle storesNext ∧
    fetchWord storesNext = some (formatXNN 0xF 3 0x55) ∧ storesNext.i = storesNext.pc + 2 ∧
    storesNext.i.toNat + 15 ≤ 0xFFF :=
  ⟨rfl, rfl, .inl rfl, by decide +kernel, by decide, by decide⟩

end Sys2Proof.Tests
end

section
/-! PROOF. Everything an instruction can do to the state, said once (`exec_cases`), and the parts that it
writes: O47. -/

namespace Sys2Proof.Machine

/-- `t` differs from `s` in the parts of the list alone. `KeepsAllBut` with a field for each part, and
with memory the same data and not only the same readings. -/
structure WritesOnly (ps : List Part) (s t : State) : Prop where
  v : .v ∉ ps → t.v = s.v
  i : .i ∉ ps → t.i = s.i
  pc : .pc ∉ ps → t.pc = s.pc
  stack : .stack ∉ ps → t.stack = s.stack
  sp : .sp ∉ ps → t.sp = s.sp
  dt : .dt ∉ ps → t.dt = s.dt
  st : .st ∉ ps → t.st = s.st
  keys : .keys ∉ ps → t.keys = s.keys
  wait : .wait ∉ ps → t.wait = s.wait
  waitReg : .waitReg ∉ ps → t.waitReg = s.waitReg
  fb : .fb ∉ ps → t.fb = s.fb
  dirty : .dirty ∉ ps → t.dirty = s.dirty
  mem : .mem ∉ ps → t.mem = s.mem
  fault : .fault ∉ ps → t.fault = s.fault
  inputs : .inputs ∉ ps → t.inputs = s.inputs
  reply : .reply ∉ ps → t.reply = s.reply
  rnd : .rnd ∉ ps → t.rnd = s.rnd
  draws : .draws ∉ ps → t.draws = s.draws

theorem WritesOnly.keepsAllBut {ps : List Part} {s t : State} (h : WritesOnly ps s t) :
    KeepsAllBut ps s t
  | .v, hp => h.v hp
  | .i, hp => h.i hp
  | .pc, hp => h.pc hp
  | .stack, hp => h.stack hp
  | .sp, hp => h.sp hp
  | .dt, hp => h.dt hp
  | .st, hp => h.st hp
  | .keys, hp => h.keys hp
  | .wait, hp => h.wait hp
  | .waitReg, hp => h.waitReg hp
  | .fb, hp => h.fb hp
  | .dirty, hp => h.dirty hp
  | .mem, hp => fun a => congrArg (readByte · a) (h.mem hp)
  | .fault, hp => h.fault hp
  | .inputs, hp => h.inputs hp
  | .reply, hp => h.reply hp
  | .rnd, hp => h.rnd hp
  | .draws, hp => h.draws hp

theorem writesOnly_raise {ps : List Part} (hf : .fault ∈ ps) (s : State) (code : FaultCode)
    (info : Word) : WritesOnly ps s (s.raise code info) := by
  constructor <;> simp [hf]

/-- The key that EX9E and EXA1 test is the one R190 numbers. -/
theorem getElem?_keys_keyOf (s : State) (b : Byte) :
    s.keys[b.toNat % 16]? = some (s.keyDown (keyOf b)) := Vector.getElem?_eq_getElem (keyOf b).isLt

/-- Everything 00EE does (R141). -/
theorem execRet_cases (s : State) :
    (s.sp.val = 0 ∧ execRet s = .next (s.raise .stackUnderflow s.pc)) ∨
    ∃ h : 0 < s.sp.val, execRet s = .next
      { s with sp := ⟨s.sp.val - 1, by omega⟩, pc := s.stack[s.sp.val - 1]'(by omega) } := by
  unfold execRet
  rcases s.pop_cases with ⟨hsp, h⟩ | ⟨hsp, h⟩ <;> rw [h]
  · exact .inl ⟨hsp, rfl⟩
  · exact .inr ⟨hsp, rfl⟩

/-- Everything 2NNN does (R143). -/
theorem execCall_cases (nnn : Addr12) (s : State) :
    (s.sp.val = 16 ∧ execCall nnn s = .next (s.raise .stackOverflow s.pc)) ∨
    ∃ h : s.sp.val < 16, execCall nnn s = .next
      { s with stack := s.stack.set s.sp.val (s.pc + 2), sp := ⟨s.sp.val + 1, by omega⟩,
               pc := addressOf nnn } := by
  unfold execCall
  rcases s.push_cases (s.pc + 2) with ⟨hsp, h⟩ | ⟨hsp, h⟩ <;> rw [h]
  · exact .inl ⟨hsp, rfl⟩
  · exact .inr ⟨hsp, rfl⟩

/-- `i` took `s` to `t` and raised nothing: it wrote its own parts (R28, R30 to R42) and left `PC`
where R24 says. -/
structure Completes (i : Instr) (s t : State) : Prop where
  writes : WritesOnly (mayWrite i) s t
  pc : t.pc = listedPc s i
  fault : t.fault = s.fault

/-- Everything an instruction can do: it raises and changes nothing else, or completes. -/
theorem exec_cases (i : Instr) (s : State) :
    (Part.fault ∈ mayWrite i ∧ ∃ code info, exec i s = .next (s.raise code info)) ∨
    ∃ t, exec i s = .next t ∧ Completes i s t := by
  cases i with
  | cls | jp | jpV0 | ldImm | addImm | ldReg | orReg | andReg | xorReg | addReg | subReg | shr | subnReg
  | shl | ldI | ldF | rnd | ldVxDt | ldVxK | ldDtVx | ldStVx =>
    exact .inr ⟨_, rfl, by constructor <;> simp [mayWrite], rfl, rfl⟩
  | seImm | sneImm | seReg | sneReg | skp | sknp =>
    exact .inr ⟨_, rfl, by constructor <;> simp [mayWrite],
      by simp [listedPc, getElem?_keys_keyOf], rfl⟩
  | addI x => exact .inr ⟨_, execAddI_eq x s, by constructor <;> simp [mayWrite], rfl, rfl⟩
  | ret =>
    rcases execRet_cases s with ⟨_, h⟩ | ⟨hsp, h⟩
    · exact .inl ⟨by decide, _, _, h⟩
    · have hlast : s.sp.val - 1 < 16 := by omega
      exact .inr ⟨_, h, by constructor <;> simp [mayWrite], by simp [listedPc, hlast], rfl⟩
  | call nnn =>
    rcases execCall_cases nnn s with ⟨_, h⟩ | ⟨hsp, h⟩
    · exact .inl ⟨by simp [mayWrite], _, _, h⟩
    · exact .inr ⟨_, h, by constructor <;> simp [mayWrite], rfl, rfl⟩
  | ldB x =>
    rcases storeAtIndex_cases (bcdDigits (s.reg x)) s with ⟨_, h⟩ | ⟨_, h⟩
    · exact .inl ⟨by simp [mayWrite], _, _, h⟩
    · exact .inr ⟨_, h, by constructor <;> simp [mayWrite], rfl, rfl⟩
  | dumpRegs x =>
    rcases storeAtIndex_cases (s.v.toList.take (dumpCount x)) s with ⟨_, h⟩ | ⟨_, h⟩
    · exact .inl ⟨by simp [mayWrite], _, _, h⟩
    · exact .inr ⟨_, h, by constructor <;> simp [mayWrite], rfl, rfl⟩
  | loadRegs x =>
    rcases execLoadRegs_cases x s with ⟨_, h⟩ | ⟨_, v, _, h⟩
    · exact .inl ⟨by simp [mayWrite], _, _, h⟩
    · exact .inr ⟨_, h, by constructor <;> simp [mayWrite], rfl, rfl⟩
  | drw x y n =>
    rcases execDrw_cases x y n s with ⟨_, _, h⟩ | ⟨_, h⟩
    · exact .inl ⟨by simp [mayWrite], _, _, h⟩
    · exact .inr ⟨_, h, by constructor <;> simp [mayWrite], rfl, rfl⟩

/-- Every instruction writes its own parts alone, raising or not. -/
theorem exec_writesOnly (i : Instr) (s : State) :
    ∃ t, exec i s = .next t ∧ WritesOnly (mayWrite i) s t := by
  rcases exec_cases i s with ⟨hf, code, info, h⟩ | ⟨t, h, ht⟩
  · exact ⟨_, h, writesOnly_raise hf s code info⟩
  · exact ⟨t, h, ht.writes⟩

/-- Settles O47, by `exec_cases`. -/
theorem instructionsWriteOnlyTheirParts : Obligations.InstructionsWriteOnlyTheirParts := by
  intro i s
  obtain ⟨t, h, ht⟩ := exec_writesOnly i s
  exact ⟨t, h, ht.keepsAllBut⟩

end Sys2Proof.Machine
end

section
/-! PROOF. Where instructions and the wait of FX0A leave `PC`: O46. -/

namespace Sys2Proof.Machine

theorem wait_of_exec_ldVxK {x : Reg} {s t : State} (h : exec (.ldVxK x) s = .next t) :
    t.wait = true := by
  cases h
  rfl

/-- The two shapes of what a SetKey leaves: the wait ended, or only the keys and the reply written (R128,
R129). `setKeyInRange_cases` says when it is which. -/
theorem setKey_cases (index : Nat) (pressed : Bool) (s : State) :
    (∃ keys b, setKey index pressed s =
      { s with keys := keys, v := s.v.set s.waitReg.val b, wait := false, reply := .ok }) ∨
    ∃ keys reply, setKey index pressed s = { s with keys := keys, reply := reply } := by
  by_cases hlt : index < 16
  · rw [setKey_of_lt hlt]
    rcases setKeyInRange_cases ⟨index, hlt⟩ pressed s with ⟨_, _, h⟩ | ⟨_, h⟩ <;> rw [h]
    · exact .inl ⟨_, _, rfl⟩
    · exact .inr ⟨_, _, rfl⟩
  · exact .inr ⟨s.keys, .inputOutOfRange, setKey_of_ge (by omega) pressed s⟩

theorem setKey_pc (index : Nat) (pressed : Bool) (s : State) : (setKey index pressed s).pc = s.pc := by
  rcases setKey_cases index pressed s with ⟨_, _, h⟩ | ⟨_, _, h⟩ <;> rw [h]

/-- While the block waits, `PC` stands through every event but Reset (R24). -/
theorem step_pc_of_wait {s : State} (hw : s.wait = true) (hr : ∀ es, s.inputs ≠ .reset :: es) :
    ∃ t, step s = .next t ∧ t.pc = s.pc := by
  by_cases hk : ∀ e ∈ s.inputs.head?, e.keepsWait = true
  · obtain ⟨t, h, _, _, _, hpc, _⟩ := step_waiting hw hk
    exact ⟨t, h, hpc⟩
  · cases hi : s.inputs with
    | nil => simp [hi] at hk
    | cons e es =>
      cases e with
      | setKey index pressed =>
        exact ⟨_, step_done (startStep_setKey hi), setKey_pc index pressed _⟩
      | reset => exact absurd hi (hr es)
      | cycle | tick | load | snapshot | ackFrame => simp [hi, Event.keepsWait] at hk

/-- Settles O46: `exec_cases` says where an instruction leaves `PC`, `step_pc_of_wait` that the wait
keeps it. -/
theorem pcAfterEveryInstruction : Obligations.PcAfterEveryInstruction := by
  refine ⟨fun i s hs => ?_, fun s hw hr => step_pc_of_wait hw hr⟩
  have hwait : ∀ t, exec i s = .next t → ∀ x, i = .ldVxK x → t.wait = true := by
    rintro t h x rfl
    exact wait_of_exec_ldVxK h
  rcases exec_cases i s with ⟨_, code, info, h⟩ | ⟨t, h, ht⟩
  · exact ⟨_, h, fun hf => by simp at hf, fun _ => rfl, hwait _ h⟩
  · exact ⟨t, h, fun _ => ht.pc, fun hf => absurd (ht.fault.trans hs) hf, hwait t h⟩

end Sys2Proof.Machine
end

section
/-! PROOF. Which instructions write VF, and what a flag is: O48. -/

namespace Sys2Proof.Machine

/-- An instruction that neither writes VF as a flag nor names it leaves it (R28). -/
theorem exec_keeps_vf {i : Instr} {s t : State} (h : exec i s = .next t) (hf : writesFlag i = false)
    (hn : namesVf i = false) : t.reg VF = s.reg VF := by
  by_cases hv : Part.v ∈ mayWrite i
  · cases i with
    | addReg | subReg | subnReg | shr | shl | drw | addI | loadRegs => simp [writesFlag, namesVf] at hf hn
    | ldImm x | addImm x | ldReg x | orReg x | andReg x | xorReg x | rnd x | ldVxDt x =>
      have hx : VF ≠ x := Ne.symm (by simpa [namesVf] using hn)
      cases h
      exact (State.reg_setReg _ x VF _).trans (if_neg hx)
    | cls | ret | jp | call | seImm | sneImm | seReg | sneReg | ldI | jpV0 | skp | sknp | ldVxK | ldDtVx
    | ldStVx | ldF | ldB | dumpRegs => simp [mayWrite] at hv
  · obtain ⟨u, hu, hw⟩ := exec_writesOnly i s
    cases hu.symm.trans h
    exact State.reg_eq_of_v_eq (hw.v hv) VF

theorem reg_setFlag_VF (s : State) (f : Bool) :
    (s.setFlag f).reg VF = 0x00 ∨ (s.setFlag f).reg VF = 0x01 := by
  rw [State.reg_setFlag, if_pos rfl]
  cases f
  · exact .inl rfl
  · exact .inr rfl

/-- A flag-writing instruction that raises nothing leaves a flag in VF (R27, R28). -/
theorem exec_flag {i : Instr} {s t : State} (h : exec i s = .next t) (hf : writesFlag i = true)
    (hraise : t.fault = none) : t.reg VF = 0x00 ∨ t.reg VF = 0x01 := by
  cases i with
  | addReg | subReg | subnReg | shr | shl | addI =>
    cases h
    exact reg_setFlag_VF _ _
  | drw x y n =>
    rcases execDrw_cases x y n s with ⟨_, _, hd⟩ | ⟨_, hd⟩ <;> cases hd.symm.trans h
    · simp at hraise
    · exact reg_setFlag_VF _ _
  | cls | ret | jp | call | seImm | sneImm | seReg | ldImm | addImm | ldReg | orReg | andReg | xorReg
  | sneReg | ldI | jpV0 | rnd | skp | sknp | ldVxDt | ldVxK | ldDtVx | ldStVx | ldF | ldB | dumpRegs
  | loadRegs => simp [writesFlag] at hf

/-- Settles O48: `exec_keeps_vf` for the instructions that are not listed, `exec_flag` for the flags. -/
theorem onlyListedInstructionsChangeVf : Obligations.OnlyListedInstructionsChangeVf := by
  refine fun i s t h => ⟨fun hne => ?_, fun hf _ hraise => exec_flag h hf hraise⟩
  by_contra hc
  simp only [not_or, Bool.not_eq_true] at hc
  exact hne (exec_keeps_vf h hc.1 hc.2)

end Sys2Proof.Machine
end

section
/-! PROOF. The state after Reset: O12, O13, O14. -/

namespace Sys2Proof.Machine

/-- Settles O12: the register file of `State.reset` is sixteen copies of 0x00. -/
theorem resetZeroesVRegisters : Obligations.ResetZeroesVRegisters := by
  intro x
  simp [State.reset, State.reg]

/-- Memory at reset reads as the font in its lowest 80 bytes. -/
theorem readBytes_reset_font : readBytes State.reset.mem 0 80 = Config.fontData := by
  decide

/-- Memory at reset reads as `MEM_INIT` above the font. -/
theorem readByte_reset_above_font {a : Nat} (ha : 80 ≤ a) : readByte State.reset.mem a = 0x00 := by
  have hlen : Config.fontData.length ≤ a := ha
  show Config.fontData.getD a Config.memInit = 0x00
  rw [List.getD_eq_default _ _ hlen]
  rfl

/-- Settles O13: each value of the table by computation, memory by its two lemmas. -/
theorem resetTableValues : Obligations.ResetTableValues := by
  refine ⟨rfl, rfl, rfl, rfl, rfl, fun k => ?_, rfl, fun x y => pixel_blankFrame x y, rfl,
    readBytes_reset_font, fun a ha => readByte_reset_above_font ha, rfl⟩
  simp [State.reset]

/-- Settles O14: no byte is stored, no stack entry is valid and nothing waits. -/
theorem resetSatisfiesInvariant : Obligations.ResetSatisfiesInvariant where
  memory := State.reset_mem_wf
  pcRange := by decide
  entries := fun j hj => absurd hj (Nat.not_lt_zero j.val)
  waiting := fun h => by cases h

end Sys2Proof.Machine
end

section
/-! PROOF. The invariant of R46 is kept by every step: O52. -/

namespace Sys2Proof.Machine

/-! ### An event keeps the invariant -/

/-- The invariant reads memory, `PC`, the stack, and whether a waiting block is faulted. -/
theorem State.Inv.congr {s t : State} (h : s.Inv) (hmem : t.mem = s.mem) (hpc : t.pc = s.pc)
    (hstack : t.stack = s.stack) (hsp : t.sp = s.sp) (hwait : t.wait = true → t.fault = none) :
    t.Inv where
  memory := hmem ▸ h.memory
  pcRange := hpc ▸ h.pcRange
  entries := by
    rw [hstack, hsp]
    exact h.entries
  waiting := hwait

theorem State.Inv.load {s : State} (h : s.Inv) (bytes : List Byte) : (load bytes s).Inv := by
  rcases load_cases bytes s with ⟨_, hl⟩ | ⟨hlen, hl⟩ <;> rw [hl]
  · exact h.congr rfl rfl rfl rfl h.waiting
  · have hfits : 0x200 + bytes.length ≤ Config.memSize := by
      simp only [Config.memSize]
      omega
    exact ⟨Memory.wf_writeBytes h.memory bytes hfits, h.pcRange, h.entries, h.waiting⟩

theorem State.Inv.setKey {s : State} (h : s.Inv) (index : Nat) (pressed : Bool) :
    (setKey index pressed s).Inv := by
  rcases setKey_cases index pressed s with ⟨_, _, hk⟩ | ⟨_, _, hk⟩ <;> rw [hk]
  · exact h.congr rfl rfl rfl rfl fun hw => by cases hw
  · exact h.congr rfl rfl rfl rfl h.waiting

/-! ### An instruction keeps the invariant -/

/-- A block that does not wait keeps the invariant when it raises. -/
theorem State.Inv.raise {s : State} (h : s.Inv) (hw : s.wait = false) (code : FaultCode) (info : Word) :
    (s.raise code info).Inv :=
  h.congr rfl rfl rfl rfl fun ht => absurd (hw.symm.trans ht) Bool.false_ne_true

theorem storeAtIndex_mem_wf {bs : List Byte} {s t : State} (h : s.mem.wf)
    (he : storeAtIndex bs s = .next t) : t.mem.wf := by
  rcases storeAtIndex_cases bs s with ⟨_, hs⟩ | ⟨hr, hs⟩ <;> cases hs.symm.trans he
  · exact h
  · rcases outOfRange_eq_false.mp hr with h0 | hle
    · rw [List.length_eq_zero_iff.mp h0]
      exact h
    · exact Memory.wf_writeBytes h bs hle

/-- Only FX33 and FX55 store, and they keep the canonical form of memory. -/
theorem exec_mem_wf {i : Instr} {s t : State} (h : s.mem.wf) (he : exec i s = .next t) : t.mem.wf := by
  by_cases hm : Part.mem ∈ mayWrite i
  · cases i with
    | ldB | dumpRegs => exact storeAtIndex_mem_wf h he
    | cls | ret | jp | call | seImm | sneImm | seReg | ldImm | addImm | ldReg | orReg | andReg | xorReg
    | addReg | subReg | shr | subnReg | shl | sneReg | ldI | jpV0 | rnd | drw | skp | sknp | ldVxDt
    | ldVxK | ldDtVx | ldStVx | addI | ldF | loadRegs => simp [mayWrite] at hm
  · obtain ⟨u, hu, hw⟩ := exec_writesOnly i s
    cases hu.symm.trans he
    exact hw.mem hm ▸ h

/-- Where an instruction other than 00EE leaves `PC` is at most 0x10FE, when it was fetched (R25). -/
theorem listedPc_le {i : Instr} {s : State} (hpc : s.pc.toNat ≤ 0xFFE) (hi : i ≠ .ret) :
    (listedPc s i).toNat ≤ 0x10FE := by
  cases i with
  | ret => exact absurd rfl hi
  | jp nnn | call nnn =>
    have := nnn.isLt
    exact (addressOf_toNat nnn).trans_le (by omega)
  | jpV0 nnn =>
    have := nnn.isLt
    have := (s.reg 0).isLt
    exact (offsetAddress_toNat (s.reg 0) nnn).trans_le (by omega)
  | seImm | sneImm | seReg | sneReg | skp | sknp =>
    simp only [listedPc]
    split <;> bv_omega
  | cls | ldImm | addImm | ldReg | orReg | andReg | xorReg | addReg | subReg | shr | subnReg | shl | ldI
  | rnd | drw | ldVxDt | ldVxK | ldDtVx | ldStVx | addI | ldF | ldB | dumpRegs | loadRegs =>
    simp only [listedPc]
    bv_omega

theorem execRet_inv {s t : State} (h : s.Inv) (hw : s.wait = false) (he : execRet s = .next t) :
    t.Inv := by
  rcases execRet_cases s with ⟨_, hr⟩ | ⟨hsp, hr⟩ <;> cases hr.symm.trans he
  · exact h.raise hw _ _
  · have hlast : s.sp.val - 1 < 16 := by omega
    have htop := (h.entries ⟨s.sp.val - 1, hlast⟩ (Nat.sub_one_lt_of_lt hsp)).2
    exact ⟨h.memory, Nat.le_trans htop (by decide),
      fun j hj => h.entries j (Nat.lt_of_lt_of_le hj (Nat.sub_le _ 1)), h.waiting⟩

/-- The entry that 2NNN pushes is `a + 2`, with `a` at most 0xFFE (R38). -/
theorem execCall_inv {nnn : Addr12} {s t : State} (h : s.Inv) (hw : s.wait = false)
    (hpc : s.pc.toNat ≤ 0xFFE) (he : execCall nnn s = .next t) : t.Inv := by
  rcases execCall_cases nnn s with ⟨_, hr⟩ | ⟨hsp, hr⟩ <;> cases hr.symm.trans he
  · exact h.raise hw _ _
  · refine ⟨h.memory, listedPc_le (i := .call nnn) hpc (by simp), fun j hj => ?_, h.waiting⟩
    have hj : j.val < s.sp.val + 1 := hj
    simp only [Vector.getElem_set]
    split
    · bv_omega
    · exact h.entries j (by omega)

/-- Only 00EE and 2NNN write the stack. -/
theorem eq_ret_or_call {i : Instr} (h : Part.stack ∈ mayWrite i) : i = .ret ∨ ∃ nnn, i = .call nnn := by
  cases i <;> simp [mayWrite] at h ⊢

/-- An instruction that writes `SP` writes the stack. -/
theorem stack_mem_mayWrite {i : Instr} (h : Part.sp ∈ mayWrite i) : Part.stack ∈ mayWrite i := by
  cases i <;> simp [mayWrite] at h ⊢

/-- A fetched instruction keeps the invariant. -/
theorem exec_inv {i : Instr} {s t : State} (h : s.Inv) (hf : s.fault = none) (hw : s.wait = false)
    (hpc : s.pc.toNat ≤ 0xFFE) (he : exec i s = .next t) : t.Inv := by
  by_cases hstack : Part.stack ∈ mayWrite i
  · rcases eq_ret_or_call hstack with rfl | ⟨nnn, rfl⟩
    · exact execRet_inv h hw he
    · exact execCall_inv h hw hpc he
  · rcases exec_cases i s with ⟨_, code, info, hr⟩ | ⟨u, hu, hc⟩
    · cases hr.symm.trans he
      exact h.raise hw code info
    · cases hu.symm.trans he
      have hret : i ≠ .ret := by
        rintro rfl
        exact hstack (by decide)
      refine ⟨exec_mem_wf h.memory he, hc.pc ▸ listedPc_le hpc hret, ?_, fun _ => hc.fault.trans hf⟩
      rw [hc.writes.stack hstack, hc.writes.sp (mt stack_mem_mayWrite hstack)]
      exact h.entries

/-! ### A step keeps the invariant -/

/-- A Cycle keeps the invariant: it does nothing, raises at fetch or decode, or executes (R222). -/
theorem cycle_inv {r : Option Byte} {s u t : State} (h : u.Inv) (hs : startStep s = startCycle r u)
    (he : step s = .next t) : t.Inv := by
  rcases startCycle_cases r u with ⟨_, hc⟩ | ⟨_, _, hc⟩ | ⟨hf, hw, hc⟩
  · cases (step_done (hs.trans hc)).symm.trans he
    exact h
  · cases (step_done (hs.trans hc)).symm.trans he
    exact h
  · rcases startInstr_cases r u with ⟨_, hi⟩ | ⟨op, bad, _, _, hi⟩ | ⟨op, i, hfetch, _, hi⟩
    · cases (step_done (hs.trans (hc.trans hi))).symm.trans he
      exact h.raise hw _ _
    · cases (step_done (hs.trans (hc.trans hi))).symm.trans he
      exact h.raise hw _ _
    · have hpc : u.pc.toNat ≤ 0xFFE := by
        by_contra hgt
        simp [fetchWord_eq_none.mpr (Nat.lt_of_not_le hgt)] at hfetch
      have hrnd : State.Inv { u with rnd := r } := h.congr rfl rfl rfl rfl h.waiting
      exact exec_inv hrnd hf hw hpc ((step_run (hs.trans (hc.trans hi))).symm.trans he)

/-- Settles O52, by the event of the step. -/
theorem stepKeepsInvariant : Obligations.StepKeepsInvariant := by
  intro s t h he
  have hdrop : ∀ es, State.Inv { s with inputs := es } := fun es => h.congr rfl rfl rfl rfl h.waiting
  cases hi : s.inputs with
  | nil => exact cycle_inv h (startStep_nil hi) he
  | cons e es =>
    cases e with
    | cycle r => exact cycle_inv (hdrop es) (startStep_cycle_cons hi) he
    | tick =>
      cases (step_done (startStep_tick hi)).symm.trans he
      exact h.congr rfl rfl rfl rfl h.waiting
    | setKey index pressed =>
      cases (step_done (startStep_setKey hi)).symm.trans he
      exact (hdrop es).setKey index pressed
    | load bytes =>
      cases (step_done (startStep_load hi)).symm.trans he
      exact (hdrop es).load bytes
    | snapshot =>
      cases (step_done (startStep_snapshot hi)).symm.trans he
      exact h.congr rfl rfl rfl rfl h.waiting
    | ackFrame =>
      cases (step_done (startStep_ackFrame hi)).symm.trans he
      exact h.congr rfl rfl rfl rfl h.waiting
    | reset =>
      cases (step_done (startStep_reset hi)).symm.trans he
      exact State.Inv.congr resetSatisfiesInvariant rfl rfl rfl rfl fun hw => by cases hw

end Sys2Proof.Machine
end

section
/-! PROOF. The dead stack slots and the idle `WAIT_REG` are unobservable: O51. States that agree are
written as one state and the same with other dead values, so that what reads neither commutes with the
change by definition. -/

namespace Sys2Proof.Machine

/-- `s` with other values in the stack slots and in `WAIT_REG`. -/
def State.withDead (s : State) (stack : Vector Word 16) (waitReg : Reg) : State :=
  { s with stack := stack, waitReg := waitReg }

/-- States that agree where it can be observed differ in the stack slots and `WAIT_REG` alone. -/
theorem AgreeLive.exists_withDead {s t : State} (h : AgreeLive s t) :
    ∃ stack waitReg, t = s.withDead stack waitReg := by
  refine ⟨t.stack, t.waitReg, ?_⟩
  have hsame : ∀ p, p ∉ [Part.stack, .waitReg, .mem] → p.same s t := h.same
  have hmem := h.memory
  cases s
  cases t
  simp only [State.withDead, State.mk.injEq, true_and]
  exact ⟨hsame .v (by decide), hsame .i (by decide), hsame .pc (by decide), hsame .sp (by decide),
    hsame .dt (by decide), hsame .st (by decide), hsame .keys (by decide), hsame .wait (by decide),
    hsame .fb (by decide), hsame .dirty (by decide), hmem.symm, hsame .fault (by decide),
    hsame .inputs (by decide), hsame .reply (by decide), hsame .rnd (by decide), hsame .draws (by decide)⟩

section
variable {s : State} {stack : Vector Word 16} {waitReg : Reg}

theorem agreeLive_withDead
    (hentries : ∀ j : Fin 16, j.val < s.sp.val → s.stack[j.val] = stack[j.val])
    (hawaited : s.wait = true → s.waitReg = waitReg) : AgreeLive s (s.withDead stack waitReg) where
  same := by
    intro p hp
    cases p <;> simp_all [Part.same, State.withDead]
  memory := rfl
  entries := hentries
  awaited := hawaited

theorem AgreeLive.refl (s : State) : AgreeLive s s := agreeLive_withDead (fun _ _ => rfl) (fun _ => rfl)

/-- A state that kept the stack and, while it waits, the wait, agrees with itself under the same dead
values. -/
theorem AgreeLive.of_kept {u : State} (h : AgreeLive s (s.withDead stack waitReg))
    (hstack : u.stack = s.stack) (hsp : u.sp = s.sp)
    (hwait : u.wait = true → s.wait = true ∧ u.waitReg = s.waitReg) :
    AgreeLive u (u.withDead stack waitReg) := by
  refine agreeLive_withDead (fun j hj => ?_) fun hu => ?_
  · rw [hsp] at hj
    rw [hstack]
    exact h.entries j hj
  · obtain ⟨hs, hreg⟩ := hwait hu
    exact hreg.trans (h.awaited hs)

/-! ### An instruction -/

theorem storeAtIndex_withDead (bs : List Byte) :
    ∃ u, storeAtIndex bs s = .next u ∧
      storeAtIndex bs (s.withDead stack waitReg) = .next (u.withDead stack waitReg) := by
  by_cases h : outOfRange (dataAddress s.i 0) bs.length = true
  · exact ⟨_, if_pos h, if_pos h⟩
  · exact ⟨_, if_neg h, if_neg h⟩

/-- An instruction that writes neither the stack nor `WAIT_REG` reads neither. -/
theorem exec_withDead {i : Instr} (hstack : Part.stack ∉ mayWrite i)
    (hwait : Part.waitReg ∉ mayWrite i) :
    ∃ u, exec i s = .next u ∧
      exec i (s.withDead stack waitReg) = .next (u.withDead stack waitReg) := by
  cases i with
  | ret | call => simp [mayWrite] at hstack
  | ldVxK => simp [mayWrite] at hwait
  | cls | jp | seImm | sneImm | seReg | ldImm | addImm | ldReg | orReg | andReg | xorReg | addReg
  | subReg | shr | subnReg | shl | sneReg | ldI | jpV0 | rnd | skp | sknp | ldVxDt | ldDtVx | ldStVx
  | addI | ldF => exact ⟨_, rfl, rfl⟩
  | ldB x => exact storeAtIndex_withDead (bcdDigits (s.reg x))
  | dumpRegs x => exact storeAtIndex_withDead (s.v.toList.take (dumpCount x))
  | loadRegs x =>
    by_cases h : outOfRange (dataAddress s.i 0) (dumpCount x) = true
    · exact ⟨_, if_pos h, if_pos h⟩
    · exact ⟨_, if_neg h, if_neg h⟩
  | drw x y n =>
    by_cases h : outOfRange (dataAddress s.i 0) n.toNat = true
    · exact ⟨_, if_pos h, if_pos h⟩
    · exact ⟨_, if_neg h, if_neg h⟩

/-- 00EE reads the newest valid entry, on which the states agree. -/
theorem execRet_agreeLive (h : AgreeLive s (s.withDead stack waitReg)) :
    ∃ s' t', execRet s = .next s' ∧ execRet (s.withDead stack waitReg) = .next t' ∧
      AgreeLive s' t' := by
  rcases execRet_cases s with ⟨hsp, hs⟩ | ⟨hsp, hs⟩ <;>
    rcases execRet_cases (s.withDead stack waitReg) with ⟨hsp', ht⟩ | ⟨hsp', ht⟩
  · exact ⟨_, _, hs, ht, h.of_kept rfl rfl fun hw => ⟨hw, rfl⟩⟩
  · exact absurd hsp (Nat.ne_of_gt hsp')
  · exact absurd hsp' (Nat.ne_of_gt hsp)
  · have hlast : s.sp.val - 1 < 16 := by omega
    have htop : stack[s.sp.val - 1] = s.stack[s.sp.val - 1] :=
      (h.entries ⟨s.sp.val - 1, hlast⟩ (Nat.sub_one_lt_of_lt hsp)).symm
    refine ⟨_, _, hs, ht, ?_⟩
    simp only [State.withDead, htop]
    exact agreeLive_withDead (fun j hj => h.entries j (Nat.lt_of_lt_of_le hj (Nat.sub_le _ 1)))
      h.awaited

/-- 2NNN makes a dead slot valid by writing the same entry to it. -/
theorem execCall_agreeLive (nnn : Addr12) (h : AgreeLive s (s.withDead stack waitReg)) :
    ∃ s' t', execCall nnn s = .next s' ∧ execCall nnn (s.withDead stack waitReg) = .next t' ∧
      AgreeLive s' t' := by
  rcases execCall_cases nnn s with ⟨hsp, hs⟩ | ⟨hsp, hs⟩ <;>
    rcases execCall_cases nnn (s.withDead stack waitReg) with ⟨hsp', ht⟩ | ⟨hsp', ht⟩
  · exact ⟨_, _, hs, ht, h.of_kept rfl rfl fun hw => ⟨hw, rfl⟩⟩
  · exact absurd hsp (Nat.ne_of_lt hsp')
  · exact absurd hsp' (Nat.ne_of_lt hsp)
  · refine ⟨_, _, hs, ht, agreeLive_withDead (fun j hj => ?_) h.awaited⟩
    have hj : j.val < s.sp.val + 1 := hj
    by_cases hnew : s.sp.val = j.val
    · simp [State.withDead, hnew]
    · have hold : s.stack[j.val] = stack[j.val] := h.entries j (by omega)
      simpa [Vector.getElem_set, State.withDead, hnew] using hold

/-- Only FX0A writes `WAIT` or `WAIT_REG`. -/
theorem eq_ldVxK {i : Instr} (h : Part.waitReg ∈ mayWrite i) : ∃ x, i = .ldVxK x := by
  cases i <;> simp [mayWrite] at h ⊢

theorem waitReg_mem_mayWrite {i : Instr} (h : Part.wait ∈ mayWrite i) :
    Part.waitReg ∈ mayWrite i := by
  cases i <;> simp [mayWrite] at h ⊢

/-- States that agree execute an instruction to states that agree. -/
theorem exec_agreeLive (i : Instr) {t : State} (h : AgreeLive s t) :
    ∃ s' t', exec i s = .next s' ∧ exec i t = .next t' ∧ AgreeLive s' t' := by
  obtain ⟨stack, waitReg, rfl⟩ := h.exists_withDead
  by_cases hstack : Part.stack ∈ mayWrite i
  · rcases eq_ret_or_call hstack with rfl | ⟨nnn, rfl⟩
    · exact execRet_agreeLive h
    · exact execCall_agreeLive nnn h
  by_cases hreg : Part.waitReg ∈ mayWrite i
  · obtain ⟨x, rfl⟩ := eq_ldVxK hreg
    exact ⟨_, _, rfl, rfl, agreeLive_withDead h.entries fun _ => rfl⟩
  obtain ⟨u, hs, ht⟩ := exec_withDead (s := s) (stack := stack) (waitReg := waitReg) hstack hreg
  obtain ⟨u', hu, hw⟩ := exec_writesOnly i s
  cases hu.symm.trans hs
  have hsp : u.sp = s.sp := hw.sp (mt stack_mem_mayWrite hstack)
  have hwait : u.wait = s.wait := hw.wait (mt waitReg_mem_mayWrite hreg)
  exact ⟨u, _, hs, ht, h.of_kept (hw.stack hstack) hsp fun hu => ⟨hwait.symm.trans hu, hw.waitReg hreg⟩⟩

/-! ### The start of a step -/

/-- Two starts of a step that agree: both over in states that agree, or both about to execute the same
instruction in states that agree. -/
inductive AgreeStarted : Started → Started → Prop
  | done {s t : State} (h : AgreeLive s t) : AgreeStarted (.done s) (.done t)
  | run (i : Instr) {s t : State} (h : AgreeLive s t) : AgreeStarted (.run i s) (.run i t)

theorem startInstr_agree (r : Option Byte) (h : AgreeLive s (s.withDead stack waitReg)) :
    AgreeStarted (startInstr r s) (startInstr r (s.withDead stack waitReg)) := by
  have hfetch : fetchWord (s.withDead stack waitReg) = fetchWord s := rfl
  unfold startInstr
  rw [hfetch]
  cases fetchWord s with
  | none => exact .done (h.of_kept rfl rfl fun hw => ⟨hw, rfl⟩)
  | some op =>
    dsimp only
    cases decode op with
    | decodeError bad => exact .done (h.of_kept rfl rfl fun hw => ⟨hw, rfl⟩)
    | instr i => exact .run i (h.of_kept (u := { s with rnd := r }) rfl rfl fun hw => ⟨hw, rfl⟩)

/-- A Cycle of a block that is neither faulted nor waiting fetches (R122). -/
theorem startCycle_ready {r : Option Byte} (hf : s.fault = none) (hw : s.wait = false) :
    startCycle r s = startInstr r s := by
  simp [startCycle, hf, hw]

theorem startCycle_agree (r : Option Byte) (h : AgreeLive s (s.withDead stack waitReg)) :
    AgreeStarted (startCycle r s) (startCycle r (s.withDead stack waitReg)) := by
  rcases startCycle_cases r s with ⟨hf, hs⟩ | ⟨_, hw, hs⟩ | ⟨hf, hw, hs⟩ <;> rw [hs]
  · rw [startCycle_idle (s := s.withDead stack waitReg) (.inl hf)]
    exact .done h
  · rw [startCycle_idle (s := s.withDead stack waitReg) (.inr hw)]
    exact .done h
  · rw [startCycle_ready (s := s.withDead stack waitReg) hf hw]
    exact startInstr_agree r h

/-! ### An event that executes nothing -/

/-- A press reads the awaited register only while the block waits. -/
theorem setKeyInRange_withDead (k : Key) (pressed : Bool) (h : s.wait = true → s.waitReg = waitReg) :
    setKeyInRange k pressed (s.withDead stack waitReg) =
      (setKeyInRange k pressed s).withDead stack waitReg := by
  by_cases hends : (s.wait && pressed && s.awaits k) = true
  · have hw : s.wait = true := by simp_all
    obtain rfl := h hw
    rw [show setKeyInRange k pressed s = _ from if_pos hends]
    exact if_pos hends
  · rw [show setKeyInRange k pressed s = _ from if_neg hends]
    exact if_neg hends

theorem setKey_withDead (index : Nat) (pressed : Bool) (h : s.wait = true → s.waitReg = waitReg) :
    setKey index pressed (s.withDead stack waitReg) =
      (setKey index pressed s).withDead stack waitReg := by
  by_cases hlt : index < 16
  · rw [setKey_of_lt hlt, setKey_of_lt hlt, setKeyInRange_withDead _ pressed h]
    rfl
  · rw [setKey_of_ge (by omega), setKey_of_ge (by omega)]
    rfl

theorem setKey_agreeLive (index : Nat) (pressed : Bool) (h : AgreeLive s (s.withDead stack waitReg)) :
    AgreeLive (setKey index pressed s) (setKey index pressed (s.withDead stack waitReg)) := by
  have hawaited : s.wait = true → s.waitReg = waitReg := h.awaited
  rw [setKey_withDead index pressed hawaited]
  rcases setKey_cases index pressed s with ⟨_, _, hk⟩ | ⟨_, _, hk⟩ <;> rw [hk]
  · exact h.of_kept rfl rfl fun hw => by cases hw
  · exact h.of_kept rfl rfl fun hw => ⟨hw, rfl⟩

theorem load_withDead (bytes : List Byte) :
    load bytes (s.withDead stack waitReg) = (load bytes s).withDead stack waitReg := by
  unfold load
  split <;> rfl

theorem load_agreeLive (bytes : List Byte) (h : AgreeLive s (s.withDead stack waitReg)) :
    AgreeLive (load bytes s) (load bytes (s.withDead stack waitReg)) := by
  rw [load_withDead]
  rcases load_cases bytes s with ⟨_, hl⟩ | ⟨_, hl⟩ <;> rw [hl] <;>
    exact h.of_kept rfl rfl fun hw => ⟨hw, rfl⟩

theorem startStep_agree (h : AgreeLive s (s.withDead stack waitReg)) :
    AgreeStarted (startStep s) (startStep (s.withDead stack waitReg)) := by
  have hdrop : ∀ es, AgreeLive { s with inputs := es } ({ s with inputs := es }.withDead stack waitReg) :=
    fun es => h.of_kept rfl rfl fun hw => ⟨hw, rfl⟩
  cases hi : s.inputs with
  | nil =>
    rw [startStep_nil hi, startStep_nil (s := s.withDead stack waitReg) hi]
    exact startCycle_agree none h
  | cons e es =>
    cases e with
    | cycle r =>
      rw [startStep_cycle_cons hi, startStep_cycle_cons (s := s.withDead stack waitReg) hi]
      exact startCycle_agree (some r) (hdrop es)
    | tick =>
      rw [startStep_tick hi, startStep_tick (s := s.withDead stack waitReg) hi]
      exact .done (h.of_kept (u := tick { s with inputs := es }) rfl rfl fun hw => ⟨hw, rfl⟩)
    | setKey index pressed =>
      rw [startStep_setKey hi, startStep_setKey (s := s.withDead stack waitReg) hi]
      exact .done (setKey_agreeLive index pressed (hdrop es))
    | load bytes =>
      rw [startStep_load hi, startStep_load (s := s.withDead stack waitReg) hi]
      exact .done (load_agreeLive bytes (hdrop es))
    | snapshot =>
      rw [startStep_snapshot hi, startStep_snapshot (s := s.withDead stack waitReg) hi]
      exact .done (h.of_kept (u := snapshot { s with inputs := es }) rfl rfl fun hw => ⟨hw, rfl⟩)
    | ackFrame =>
      rw [startStep_ackFrame hi, startStep_ackFrame (s := s.withDead stack waitReg) hi]
      exact .done (h.of_kept (u := ackFrame { s with inputs := es }) rfl rfl fun hw => ⟨hw, rfl⟩)
    | reset =>
      rw [startStep_reset hi, startStep_reset (s := s.withDead stack waitReg) hi]
      exact .done (AgreeLive.refl _)

end

/-- Settles O51: the starts of the two steps agree, and so does an instruction that they execute. -/
theorem deadSlotsAreUnobservable : Obligations.DeadSlotsAreUnobservable := by
  intro s t h
  obtain ⟨stack, waitReg, rfl⟩ := h.exists_withDead
  have hstart := startStep_agree h
  generalize hs : startStep s = a at hstart
  generalize ht : startStep (s.withDead stack waitReg) = b at hstart
  cases hstart with
  | done h' => exact ⟨_, _, step_done hs, step_done ht, h'⟩
  | run i h' =>
    rw [step_run hs, step_run ht]
    exact exec_agreeLive i h'

end Sys2Proof.Machine
end

section
/-! PROOF. The fetch of a Cycle that nothing holds back: the bytes it reads, the fault beyond memory, and
that it sees a store of the instruction just before it: O5, O3, O56. -/

namespace Sys2Proof.Machine

/-! ### The bytes of a fetched word -/

theorem extractLsb'_wordOfBytes_high (hi lo : Byte) : (wordOfBytes hi lo).extractLsb' 8 8 = hi :=
  BitVec.extractLsb'_append_eq_left

theorem extractLsb'_wordOfBytes_low (hi lo : Byte) : (wordOfBytes hi lo).extractLsb' 0 8 = lo :=
  BitVec.extractLsb'_append_eq_right

/-- Settles O5: the fetched word is the two bytes, the one at `PC` above the other. -/
theorem fetchIsBigEndian : Obligations.FetchIsBigEndian := fun _ hpc =>
  ⟨_, fetchWord_of_le hpc, extractLsb'_wordOfBytes_high _ _, extractLsb'_wordOfBytes_low _ _⟩

/-! ### The step of a Cycle that nothing holds back -/

/-- A Cycle fetches when no fault stands and the block does not wait (R122). -/
theorem startStep_ready {s : State} (hc : NextIsCycle s) (hf : s.fault = none) (hw : s.wait = false) :
    ∃ r, startStep s = startInstr r s.dropEvent ∧ s.atExecute = { s.dropEvent with rnd := r } := by
  obtain ⟨r, hs, he⟩ := startStep_cycle hc
  exact ⟨r, hs.trans (startCycle_ready hf hw), he⟩

theorem startInstr_of_none {s : State} (r : Option Byte) (hfetch : fetchWord s = none) :
    startInstr r s = .done (s.raiseMemory s.pc.toNat) := by
  simp [startInstr, hfetch]

theorem startInstr_of_instr {s : State} {op : Word} {i : Instr} (r : Option Byte)
    (hfetch : fetchWord s = some op) (hd : decode op = .instr i) :
    startInstr r s = .run i { s with rnd := r } := by
  simp [startInstr, hfetch, hd]

/-- Such a Cycle whose fetch reaches past memory raises MemoryFault (R62, R219). -/
theorem step_fetch_none {s : State} (hc : NextIsCycle s) (hf : s.fault = none) (hw : s.wait = false)
    (hfetch : fetchWord s = none) : step s = .next (s.dropEvent.raiseMemory s.pc.toNat) := by
  obtain ⟨r, hs, _⟩ := startStep_ready hc hf hw
  exact step_done (hs.trans (startInstr_of_none r (s := s.dropEvent) hfetch))

/-- Such a Cycle executes the instruction that the fetched word decodes to (R122). -/
theorem step_fetch_instr {s : State} {op : Word} {i : Instr} (hc : NextIsCycle s) (hf : s.fault = none)
    (hw : s.wait = false) (hfetch : fetchWord s = some op) (hd : decode op = .instr i) :
    step s = exec i s.atExecute := by
  obtain ⟨r, hs, he⟩ := startStep_ready hc hf hw
  rw [he]
  exact step_run (hs.trans (startInstr_of_instr r (s := s.dropEvent) hfetch hd))

/-- Settles O3: above 0xFFE nothing is fetched, and the fault's info is the first address outside. -/
theorem fetchBeyondMemoryRaisesMemoryFault : Obligations.FetchBeyondMemoryRaisesMemoryFault := by
  intro s hpc hc hf hw
  refine ⟨_, step_fetch_none hc hf hw (fetchWord_eq_none.mpr hpc), ?_⟩
  rw [← firstOutside_eq]
  exact raiseMemory_raises s.dropEvent s.pc.toNat

/-! ### A store over the next instruction -/

/-- The state in which an instruction executes differs in the schedule and the `rnd` at hand alone. -/
theorem writesOnly_atExecute (s : State) : WritesOnly [.inputs, .rnd] s s.atExecute := by
  unfold State.atExecute
  split <;> constructor <;> simp

theorem decode_dumpRegs (x : Reg) : decode (formatXNN 0xF x 0x55) = .instr (.dumpRegs x) := by
  rw [decode_TF (fieldT_formatXNN _ _ _)]
  simp [decodeF]

/-- FX55 whose sixteen bytes fit stores them and goes on (R185). -/
theorem exec_dumpRegs_of_le {s : State} (x : Reg) (h : s.i.toNat + 15 ≤ 0xFFF) :
    exec (.dumpRegs x) s =
      .next { s with mem := writeBytes s.mem s.i.toNat (s.v.toList.take 16), pc := s.pc + 2 } := by
  rcases storeAtIndex_cases (s.v.toList.take 16) s with ⟨hout, _⟩ | ⟨_, hs⟩
  · rw [length_dumpBytes, outOfRange_eq_true] at hout
    omega
  · exact hs

/-- The bytes that FX55 stores read back as the registers. -/
theorem readByte_dumpBytes (s : State) (r : Reg) :
    readByte (writeBytes s.mem s.i.toNat (s.v.toList.take 16)) (s.i.toNat + r.val) = s.reg r := by
  have hr : r.val < (s.v.toList.take 16).length := (length_dumpBytes s).symm ▸ r.isLt
  rw [readByte_writeBytes_inside _ _ _ _ hr, getElem_dumpBytes]

/-- FX55 with `I = PC + 2` makes the registers V0 and V1 the next word to be fetched (R75). -/
theorem fetchWord_exec_dumpRegs {s : State} (x : Reg) (hi : s.i = s.pc + 2)
    (hfits : s.i.toNat + 15 ≤ 0xFFF) :
    ∃ t, exec (.dumpRegs x) s = .next t ∧ fetchWord t = some (wordOfBytes (s.reg 0) (s.reg 1)) := by
  have hpc : (s.pc + 2).toNat ≤ 0xFFE := by
    rw [← hi]
    omega
  refine ⟨_, exec_dumpRegs_of_le x hfits, (fetchWord_of_le hpc).trans ?_⟩
  rw [← hi]
  exact congrArg some (congrArg₂ wordOfBytes (readByte_dumpBytes s 0) (readByte_dumpBytes s 1))

/-- Settles O56: the step executes FX55, which stores V0 and V1 where the next fetch reads. -/
theorem storeIsSeenByNextFetch : Obligations.StoreIsSeenByNextFetch := by
  intro s x hf hw hc hfetch hi hfits
  have hstep : step s = exec (.dumpRegs x) s.atExecute :=
    step_fetch_instr hc hf hw hfetch (decode_dumpRegs x)
  have hat := writesOnly_atExecute s
  have hati : s.atExecute.i = s.i := hat.i (by decide)
  have hatpc : s.atExecute.pc = s.pc := hat.pc (by decide)
  have hatreg : ∀ r, s.atExecute.reg r = s.reg r := State.reg_eq_of_v_eq (hat.v (by decide))
  rw [hstep, ← hatreg 0, ← hatreg 1]
  refine fetchWord_exec_dumpRegs x ?_ ?_
  · rw [hati, hatpc, hi]
  · rw [hati]
    exact hfits

end Sys2Proof.Machine
end

section
/-! PROOF. The decoder, the encoder and the opcode table agree: O16, O17, O18, O19. The three meet in one
fact: a word is the format of its own fields. A branch of the decoder fixes the fields that the format
spells out, and so does a row of the table. -/

namespace Sys2Proof

/-! ### A word whose selector fields are known is the format of the rest -/

section
variable {op : Word} {t : Nibble}

theorem formatNNN_of_fieldT (hT : fieldT op = t) : formatNNN t (fieldNNN op) = op :=
  hT ▸ formatNNN_fields op

theorem formatXNN_of_fieldT (hT : fieldT op = t) : formatXNN t (fieldX op) (fieldNN op) = op :=
  hT ▸ formatXNN_fields op

theorem formatXNN_of_fieldNN {low : Byte} (hT : fieldT op = t) (hNN : fieldNN op = low) :
    formatXNN t (fieldX op) low = op :=
  hNN ▸ formatXNN_of_fieldT hT

theorem formatXYN_of_fieldT (hT : fieldT op = t) :
    formatXYN t (fieldX op) (fieldY op) (fieldN op) = op :=
  hT ▸ formatXYN_fields op

theorem formatXYN_of_fieldN {low : Nibble} (hT : fieldT op = t) (hN : fieldN op = low) :
    formatXYN t (fieldX op) (fieldY op) low = op :=
  hN ▸ formatXYN_of_fieldT hT

end

/-! ### Decoding undoes encoding (R102) -/

/-- The decoder reads from an instruction's word the selectors and the operands of its format. -/
theorem decode_encode (i : Instr) : decode (encode i) = .instr i := by
  cases i with
  | cls | ret => rfl
  | jp | call | ldI | jpV0 => simp [encode, decode_T1, decode_T2, decode_TA, decode_TB]
  | seImm | sneImm | ldImm | addImm | rnd =>
    simp [encode, decode_T3, decode_T4, decode_T6, decode_T7, decode_TC]
  | seReg | sneReg => simp [encode, decode_T5, decode_T9, decodeLowNibbleZero_eq]
  | ldReg | orReg | andReg | xorReg | addReg | subReg | shr | subnReg | shl =>
    simp [encode, decode_T8, decode8, Config.has8xy0]
  | drw => simp [encode, decode_TD]
  | skp | sknp => simp [encode, decode_TE, decodeE]
  | ldVxDt | ldVxK | ldDtVx | ldStVx | addI | ldF | ldB | dumpRegs | loadRegs =>
    simp [encode, decode_TF, decodeF]

/-! ### Encoding undoes decoding, by the branches of the decoder (R95) -/

section
variable {op : Word} {i j : Instr}

theorem encode_of_decode0 (h : decode0 op = .instr i) : encode i = op := by
  unfold decode0 at h
  split at h
  · next hop => cases h; exact hop.symm
  · split at h
    · next hop => cases h; exact hop.symm
    · cases h

theorem decodeLowNibbleZero_eq_instr (h : decodeLowNibbleZero op j = .instr i) :
    fieldN op = 0 ∧ j = i := by
  rw [decodeLowNibbleZero_eq] at h
  split at h
  · next hN => cases h; exact ⟨hN, rfl⟩
  · cases h

theorem encode_of_decode8 (hT : fieldT op = 0x8) (h : decode8 op = .instr i) : encode i = op := by
  unfold decode8 at h
  split at h <;> cases h <;> next hN => exact formatXYN_of_fieldN hT (BitVec.eq_of_toNat_eq hN)

theorem encode_of_decodeE (hT : fieldT op = 0xE) (h : decodeE op = .instr i) : encode i = op := by
  unfold decodeE at h
  split at h <;> cases h <;> next hNN => exact formatXNN_of_fieldNN hT (BitVec.eq_of_toNat_eq hNN)

theorem encode_of_decodeF (hT : fieldT op = 0xF) (h : decodeF op = .instr i) : encode i = op := by
  unfold decodeF at h
  split at h <;> cases h <;> next hNN => exact formatXNN_of_fieldNN hT (BitVec.eq_of_toNat_eq hNN)

/-- Branch `h_n` of the decoder is that of `T = n - 1`. -/
theorem encode_of_decode (h : decode op = .instr i) : encode i = op := by
  have hT {t : Nibble} (ht : (fieldT op).toNat = t.toNat) : fieldT op = t := BitVec.eq_of_toNat_eq ht
  unfold decode at h
  split at h
  case h_1 => exact encode_of_decode0 h
  case h_6 ht | h_10 ht =>
    obtain ⟨hN, rfl⟩ := decodeLowNibbleZero_eq_instr h
    exact formatXYN_of_fieldN (hT ht) hN
  case h_9 ht => exact encode_of_decode8 (hT ht) h
  case h_15 ht => exact encode_of_decodeE (hT ht) h
  case h_16 ht => exact encode_of_decodeF (hT ht) h
  all_goals cases h
  case h_2 ht | h_3 ht | h_11 ht | h_12 ht => exact formatNNN_of_fieldT (hT ht)
  case h_4 ht | h_5 ht | h_7 ht | h_8 ht | h_13 ht => exact formatXNN_of_fieldT (hT ht)
  case h_14 ht => exact formatXYN_of_fieldT (hT ht)

end

/-- Settles O16: each direction is one of the two round trips. -/
theorem decodeInvertsEncode : Obligations.DecodeInvertsEncode := fun _ i =>
  ⟨encode_of_decode, fun h => h ▸ decode_encode i⟩

/-- Settles O19: each word is the encoding of its instruction. -/
theorem writtenOutWordsDecode : Obligations.WrittenOutWordsDecode :=
  ⟨decode_encode .cls, decode_encode (.call 0x210), decode_encode (.addImm 1 0xFF),
    decode_encode (.subnReg 15 2), decode_encode (.drw 0 1 2), decode_encode (.loadRegs 2)⟩

/-! ### The rows of the opcode table are disjoint (R94) -/

theorem OpRow.selects_iff {r : OpRow} {op : Word} :
    r.selects op = true ↔ op &&& r.mask = r.pattern :=
  beq_iff_eq

/-- Two rows that both select some word agree on the bits that both masks keep. -/
theorem OpRow.patterns_agree_of_selects {r q : OpRow} {op : Word} (hr : r.selects op = true)
    (hq : q.selects op = true) : r.pattern &&& q.mask = q.pattern &&& r.mask := by
  rw [← selects_iff.mp hr, ← selects_iff.mp hq, BitVec.and_assoc, BitVec.and_assoc,
    BitVec.and_comm r.mask]

/-- Any two different rows differ in a bit that both masks keep. -/
theorem OpRow.eq_of_patterns_agree : ∀ r ∈ opcodeTable, ∀ q ∈ opcodeTable,
    r.pattern &&& q.mask = q.pattern &&& r.mask → r = q := by
  decide

/-- Settles O18: rows that select one word agree where both masks keep a bit, so they are one row. -/
theorem opcodeRowsAreDisjoint : Obligations.OpcodeRowsAreDisjoint :=
  ⟨rfl, fun _ r hr q hq hrs hqs =>
    OpRow.eq_of_patterns_agree r hr q hq (OpRow.patterns_agree_of_selects hrs hqs)⟩

/-! ### A word that selects a row is the encoding of an instruction of that row -/

/-- `op` is the word of an instruction of the row. -/
def OpRow.Encodes (r : OpRow) (op : Word) : Prop := ∃ i, encode i = op ∧ i.mnemonic = r.mnemonic

namespace OpRow

section
variable {r : OpRow} {op : Word}

/-- A field that the row's mask keeps whole is the pattern's field. -/
theorem extractLsb'_of_selects {start len : Nat} (h : r.selects op = true)
    (hmask : r.mask.extractLsb' start len = BitVec.allOnes len) :
    op.extractLsb' start len = r.pattern.extractLsb' start len := by
  rw [← selects_iff.mp h, BitVec.extractLsb'_and, hmask, BitVec.and_allOnes]

theorem fieldT_of_selects (h : r.selects op = true) (hmask : fieldT r.mask = BitVec.allOnes 4) :
    fieldT op = fieldT r.pattern := extractLsb'_of_selects h hmask

theorem fieldN_of_selects (h : r.selects op = true) (hmask : fieldN r.mask = BitVec.allOnes 4) :
    fieldN op = fieldN r.pattern := extractLsb'_of_selects h hmask

theorem fieldNN_of_selects (h : r.selects op = true) (hmask : fieldNN r.mask = BitVec.allOnes 8) :
    fieldNN op = fieldNN r.pattern := extractLsb'_of_selects h hmask

/-! One rule for each format of R92: the row's mask keeps the format's selectors, so a constructor that
encodes to the pattern's selectors and any operands gives the word back from the word's operands. -/

theorem encodes_word (i : Instr) (hmask : r.mask = BitVec.allOnes 16) (henc : encode i = r.pattern)
    (hname : i.mnemonic = r.mnemonic) (h : r.selects op = true) : r.Encodes op := by
  rw [selects_iff, hmask, BitVec.and_allOnes] at h
  exact ⟨i, henc.trans h.symm, hname⟩

theorem encodes_NNN (i : Addr12 → Instr) (hmask : r.mask = 0xF000)
    (hi : ∀ nnn, encode (i nnn) = formatNNN (fieldT r.pattern) nnn ∧ (i nnn).mnemonic = r.mnemonic)
    (h : r.selects op = true) : r.Encodes op :=
  have hT := fieldT_of_selects h (hmask ▸ rfl)
  ⟨_, (hi (fieldNNN op)).1.trans (formatNNN_of_fieldT hT), (hi _).2⟩

theorem encodes_XNN (i : Reg → Byte → Instr) (hmask : r.mask = 0xF000)
    (hi : ∀ x nn, encode (i x nn) = formatXNN (fieldT r.pattern) x nn ∧
      (i x nn).mnemonic = r.mnemonic)
    (h : r.selects op = true) : r.Encodes op :=
  have hT := fieldT_of_selects h (hmask ▸ rfl)
  ⟨_, (hi (fieldX op) (fieldNN op)).1.trans (formatXNN_of_fieldT hT), (hi _ _).2⟩

theorem encodes_XYN (i : Reg → Reg → Nibble → Instr) (hmask : r.mask = 0xF000)
    (hi : ∀ x y n, encode (i x y n) = formatXYN (fieldT r.pattern) x y n ∧
      (i x y n).mnemonic = r.mnemonic)
    (h : r.selects op = true) : r.Encodes op :=
  have hT := fieldT_of_selects h (hmask ▸ rfl)
  ⟨_, (hi (fieldX op) (fieldY op) (fieldN op)).1.trans (formatXYN_of_fieldT hT), (hi _ _ _).2⟩

theorem encodes_XY (i : Reg → Reg → Instr) (hmask : r.mask = 0xF00F)
    (hi : ∀ x y, encode (i x y) = formatXYN (fieldT r.pattern) x y (fieldN r.pattern) ∧
      (i x y).mnemonic = r.mnemonic)
    (h : r.selects op = true) : r.Encodes op :=
  have hT := fieldT_of_selects h (hmask ▸ rfl)
  have hN := fieldN_of_selects h (hmask ▸ rfl)
  ⟨_, (hi (fieldX op) (fieldY op)).1.trans (formatXYN_of_fieldN hT hN), (hi _ _).2⟩

theorem encodes_X (i : Reg → Instr) (hmask : r.mask = 0xF0FF)
    (hi : ∀ x, encode (i x) = formatXNN (fieldT r.pattern) x (fieldNN r.pattern) ∧
      (i x).mnemonic = r.mnemonic)
    (h : r.selects op = true) : r.Encodes op :=
  have hT := fieldT_of_selects h (hmask ▸ rfl)
  have hNN := fieldNN_of_selects h (hmask ▸ rfl)
  ⟨_, (hi (fieldX op)).1.trans (formatXNN_of_fieldNN hT hNN), (hi _).2⟩

end

/-! The instruction of each row (R94). -/

section
variable {op : Word}

theorem encodes_of_mem_opcodeRowsA : ∀ r ∈ opcodeRowsA, r.selects op = true → r.Encodes op := by
  simp only [opcodeRowsA, List.forall_mem_cons]
  exact ⟨encodes_word .cls rfl rfl rfl,
    encodes_word .ret rfl rfl rfl,
    encodes_NNN .jp rfl fun _ => ⟨rfl, rfl⟩,
    encodes_NNN .call rfl fun _ => ⟨rfl, rfl⟩,
    encodes_XNN .seImm rfl fun _ _ => ⟨rfl, rfl⟩,
    encodes_XNN .sneImm rfl fun _ _ => ⟨rfl, rfl⟩,
    encodes_XY .seReg rfl fun _ _ => ⟨rfl, rfl⟩,
    encodes_XNN .ldImm rfl fun _ _ => ⟨rfl, rfl⟩,
    encodes_XNN .addImm rfl fun _ _ => ⟨rfl, rfl⟩,
    List.forall_mem_nil _⟩

theorem encodes_of_mem_opcodeRowsB : ∀ r ∈ opcodeRowsB, r.selects op = true → r.Encodes op := by
  simp only [opcodeRowsB, List.forall_mem_cons]
  exact ⟨encodes_XY .ldReg rfl fun _ _ => ⟨rfl, rfl⟩,
    encodes_XY .orReg rfl fun _ _ => ⟨rfl, rfl⟩,
    encodes_XY .andReg rfl fun _ _ => ⟨rfl, rfl⟩,
    encodes_XY .xorReg rfl fun _ _ => ⟨rfl, rfl⟩,
    encodes_XY .addReg rfl fun _ _ => ⟨rfl, rfl⟩,
    encodes_XY .subReg rfl fun _ _ => ⟨rfl, rfl⟩,
    encodes_XY .shr rfl fun _ _ => ⟨rfl, rfl⟩,
    encodes_XY .subnReg rfl fun _ _ => ⟨rfl, rfl⟩,
    encodes_XY .shl rfl fun _ _ => ⟨rfl, rfl⟩,
    encodes_XY .sneReg rfl fun _ _ => ⟨rfl, rfl⟩,
    List.forall_mem_nil _⟩

theorem encodes_of_mem_opcodeRowsC : ∀ r ∈ opcodeRowsC, r.selects op = true → r.Encodes op := by
  simp only [opcodeRowsC, List.forall_mem_cons]
  exact ⟨encodes_NNN .ldI rfl fun _ => ⟨rfl, rfl⟩,
    encodes_NNN .jpV0 rfl fun _ => ⟨rfl, rfl⟩,
    encodes_XNN .rnd rfl fun _ _ => ⟨rfl, rfl⟩,
    encodes_XYN .drw rfl fun _ _ _ => ⟨rfl, rfl⟩,
    encodes_X .skp rfl fun _ => ⟨rfl, rfl⟩,
    encodes_X .sknp rfl fun _ => ⟨rfl, rfl⟩,
    List.forall_mem_nil _⟩

theorem encodes_of_mem_opcodeRowsD : ∀ r ∈ opcodeRowsD, r.selects op = true → r.Encodes op := by
  simp only [opcodeRowsD, List.forall_mem_cons]
  exact ⟨encodes_X .ldVxDt rfl fun _ => ⟨rfl, rfl⟩,
    encodes_X .ldVxK rfl fun _ => ⟨rfl, rfl⟩,
    encodes_X .ldDtVx rfl fun _ => ⟨rfl, rfl⟩,
    encodes_X .ldStVx rfl fun _ => ⟨rfl, rfl⟩,
    encodes_X .addI rfl fun _ => ⟨rfl, rfl⟩,
    encodes_X .ldF rfl fun _ => ⟨rfl, rfl⟩,
    encodes_X .ldB rfl fun _ => ⟨rfl, rfl⟩,
    encodes_X .dumpRegs rfl fun _ => ⟨rfl, rfl⟩,
    encodes_X .loadRegs rfl fun _ => ⟨rfl, rfl⟩,
    List.forall_mem_nil _⟩

theorem encodes_of_mem_opcodeTable {r : OpRow} (hr : r ∈ opcodeTable) (h : r.selects op = true) :
    r.Encodes op := by
  simp only [opcodeTable, List.mem_append] at hr
  rcases hr with ((hA | hB) | hC) | hD
  · exact encodes_of_mem_opcodeRowsA r hA h
  · exact encodes_of_mem_opcodeRowsB r hB h
  · exact encodes_of_mem_opcodeRowsC r hC h
  · exact encodes_of_mem_opcodeRowsD r hD h

end

end OpRow

/-! ### An instruction's word is legal -/

/-- Every instruction has its row (the family Row of the laws, as one statement). -/
theorem encode_selects_row : ∀ i : Instr, Laws.Row.Statement i
  | .cls => Laws.Row.cls
  | .ret => Laws.Row.ret
  | .jp _ => Laws.Row.jp _
  | .call _ => Laws.Row.call _
  | .seImm _ _ => Laws.Row.seImm _ _
  | .sneImm _ _ => Laws.Row.sneImm _ _
  | .seReg _ _ => Laws.Row.seReg _ _
  | .ldImm _ _ => Laws.Row.ldImm _ _
  | .addImm _ _ => Laws.Row.addImm _ _
  | .ldReg _ _ => Laws.Row.ldReg _ _
  | .orReg _ _ => Laws.Row.orReg _ _
  | .andReg _ _ => Laws.Row.andReg _ _
  | .xorReg _ _ => Laws.Row.xorReg _ _
  | .addReg _ _ => Laws.Row.addReg _ _
  | .subReg _ _ => Laws.Row.subReg _ _
  | .shr _ _ => Laws.Row.shr _ _
  | .subnReg _ _ => Laws.Row.subnReg _ _
  | .shl _ _ => Laws.Row.shl _ _
  | .sneReg _ _ => Laws.Row.sneReg _ _
  | .ldI _ => Laws.Row.ldI _
  | .jpV0 _ => Laws.Row.jpV0 _
  | .rnd _ _ => Laws.Row.rnd _ _
  | .drw _ _ _ => Laws.Row.drw _ _ _
  | .skp _ => Laws.Row.skp _
  | .sknp _ => Laws.Row.sknp _
  | .ldVxDt _ => Laws.Row.ldVxDt _
  | .ldVxK _ => Laws.Row.ldVxK _
  | .ldDtVx _ => Laws.Row.ldDtVx _
  | .ldStVx _ => Laws.Row.ldStVx _
  | .addI _ => Laws.Row.addI _
  | .ldF _ => Laws.Row.ldF _
  | .ldB _ => Laws.Row.ldB _
  | .dumpRegs _ => Laws.Row.dumpRegs _
  | .loadRegs _ => Laws.Row.loadRegs _

theorem legalWord_encode (i : Instr) : legalWord (encode i) = true := by
  obtain ⟨r, hr, _, hsel⟩ := encode_selects_row i
  exact List.any_eq_true.mpr ⟨r, hr, hsel⟩

/-- Settles O17: a selected word is encoded from its row, and a decoded word is encoded, so legal. -/
theorem decoderAgreesWithOpcodeTable : Obligations.DecoderAgreesWithOpcodeTable := by
  intro op
  constructor
  · intro r hr hsel
    obtain ⟨i, rfl, hi⟩ := OpRow.encodes_of_mem_opcodeTable hr hsel
    exact ⟨i, decode_encode i, hi⟩
  · intro hill
    cases hd : decode op with
    | instr i =>
      rw [← encode_of_decode hd, legalWord_encode] at hill
      cases hill
    | decodeError bad => rw [decodeError_eq hd]

end Sys2Proof
end

section
/-! PROOF. The events of the host (40_step_and_host_events.md): what Load, Tick, SetKey, Snapshot and
AckFrame change, and the wait that the press of a key ends: O6, O7, O8, O9, O10, O42. -/

namespace Sys2Proof.Machine

/-! ### Tick, Snapshot, AckFrame and Load -/

/-- Settles O7: each timer's decrement stops at zero. -/
theorem tickDecrementsEachTimer : Obligations.TickDecrementsEachTimer := fun _ _ hi =>
  ⟨_, step_done (startStep_tick hi), rfl, toNat_decrement _, toNat_decrement _,
    WritesOnly.keepsAllBut (by constructor <;> simp [tick])⟩

/-- Settles O9: the frame returned is the framebuffer itself. -/
theorem snapshotReturnsPixels : Obligations.SnapshotReturnsPixels := fun _ _ hi =>
  ⟨_, _, step_done (startStep_snapshot hi), rfl, fun _ _ => rfl, rfl,
    WritesOnly.keepsAllBut (by constructor <;> simp [snapshot])⟩

/-- Settles O10: `ackFrame` writes `DIRTY` alone. -/
theorem ackFrameClearsDirty : Obligations.AckFrameClearsDirty := fun _ _ hi =>
  ⟨_, step_done (startStep_ackFrame hi), rfl, rfl,
    WritesOnly.keepsAllBut (by constructor <;> simp [ackFrame])⟩

/-- Byte j of a list that is written at `a` is read at `a + j`. -/
theorem readByte_writeBytes_getElem? {bs : List Byte} {j : Nat} {b : Byte} (h : bs[j]? = some b)
    (m : Memory) (a : Nat) : readByte (writeBytes m a bs) (a + j) = b := by
  obtain ⟨hj, rfl⟩ := List.getElem?_eq_some_iff.mp h
  exact readByte_writeBytes_inside bs m a j hj

/-- Settles O6: `load_cases` says which of the two a Load does, the laws of memory what is then read. -/
theorem loadCopiesOrRefusesWhole : Obligations.LoadCopiesOrRefusesWhole := by
  intro s bytes es hi
  refine ⟨_, step_done (startStep_load hi), ?_⟩
  rcases load_cases bytes { s with inputs := es } with ⟨hlong, h⟩ | ⟨hfits, h⟩ <;> rw [h]
  · exact ⟨rfl, fun hle => absurd hlong (Nat.not_lt.mpr hle),
      fun _ => ⟨rfl, WritesOnly.keepsAllBut (by constructor <;> simp)⟩⟩
  · exact ⟨rfl,
      fun _ => ⟨rfl, WritesOnly.keepsAllBut (by constructor <;> simp),
        fun _ _ hj => readByte_writeBytes_getElem? hj s.mem 0x200,
        fun a ha => readByte_writeBytes_outside bytes s.mem 0x200 a ha⟩,
      fun hlong => absurd hlong (Nat.not_lt.mpr hfits)⟩

/-! ### SetKey -/

section
variable {s t : State} {x : Reg}

/-- A state with the register file of `s.setReg x b` keeps every register but x. -/
theorem keepsRegsBut_of_v_eq_setReg {b : Byte} (h : t.v = (s.setReg x b).v) : KeepsRegsBut [x] s t := by
  intro r hr
  rw [State.reg_eq_of_v_eq h, State.reg_setReg, if_neg (mt List.mem_singleton.mpr hr)]

/-- The register that was given the number of a key holds it. -/
theorem toNat_reg_of_v_eq_setReg {k : Nat} (hk : k < 16) (h : t.v = (s.setReg x (BitVec.ofNat 8 k)).v) :
    (t.reg x).toNat = k := by
  rw [State.reg_eq_of_v_eq h, State.reg_setReg, if_pos rfl, BitVec.toNat_ofNat,
    Nat.mod_eq_of_lt (by omega)]

end

section
variable {s : State} {es : List Event} {index : Nat}

/-- A press during the blocking-wait ends it, with the number of the key in the awaited register
(R129). -/
theorem step_press (hi : s.inputs = .setKey index true :: es) (hlt : index < 16) (hw : s.wait = true) :
    ∃ t, step s = .next t ∧ t.inputs = es ∧ t.reply = .ok ∧ t.keys = s.keys.set index true ∧
      t.v = (s.setReg s.waitReg (BitVec.ofNat 8 index)).v ∧ t.wait = false ∧
      KeepsAllBut [.keys, .v, .wait, .reply, .inputs] s t := by
  refine ⟨_, step_done (startStep_setKey hi), ?_⟩
  rw [setKey_of_lt hlt]
  rcases setKeyInRange_cases ⟨index, hlt⟩ true { s with inputs := es } with ⟨_, _, h⟩ | ⟨hn, _⟩
  · rw [h]
    exact ⟨rfl, rfl, rfl, rfl, rfl, WritesOnly.keepsAllBut (by constructor <;> simp)⟩
  · simp [hw] at hn

/-- Outside the blocking-wait, and for a release, only the key is recorded (R129). -/
theorem step_recordKey {pressed : Bool} (hi : s.inputs = .setKey index pressed :: es)
    (hlt : index < 16) (hn : s.wait = false ∨ pressed = false) :
    ∃ t, step s = .next t ∧ t.inputs = es ∧ t.reply = .ok ∧ t.keys = s.keys.set index pressed ∧
      KeepsAllBut [.keys, .reply, .inputs] s t := by
  refine ⟨_, step_done (startStep_setKey hi), ?_⟩
  rw [setKey_of_lt hlt]
  rcases setKeyInRange_cases ⟨index, hlt⟩ pressed { s with inputs := es } with ⟨hw, hp, _⟩ | ⟨_, h⟩
  · rcases hn with hn | hn
    · cases hw.symm.trans hn
    · cases hp.symm.trans hn
  · rw [h]
    exact ⟨rfl, rfl, rfl, WritesOnly.keepsAllBut (by constructor <;> simp)⟩

/-- An index above 15 is refused (R128). -/
theorem step_setKey_of_ge {pressed : Bool} (hi : s.inputs = .setKey index pressed :: es)
    (hge : 16 ≤ index) :
    ∃ t, step s = .next t ∧ t.inputs = es ∧ t.reply = .inputOutOfRange ∧
      KeepsAllBut [.reply, .inputs] s t := by
  refine ⟨_, step_done (startStep_setKey hi), ?_⟩
  rw [setKey_of_ge hge]
  exact ⟨rfl, rfl, WritesOnly.keepsAllBut (by constructor <;> simp)⟩

end

/-- Settles O8: the index is refused, or the press ends the wait, or only the key is recorded. -/
theorem setKeyRecordsAndWakes : Obligations.SetKeyRecordsAndWakes := by
  intro s index pressed es hi
  have hkeys (hlt : index < 16) {t : State} (h : t.keys = s.keys.set index pressed) :
      t.keys[index]? = some pressed ∧ ∀ k, k ≠ index → t.keys[k]? = s.keys[k]? := by
    rw [h]
    exact ⟨Vector.getElem?_set_self hlt, fun k hk => Vector.getElem?_set_ne hlt hk.symm⟩
  rcases Nat.lt_or_ge index 16 with hlt | hge
  · have hle : ¬ 15 < index := by omega
    by_cases hwake : s.wait = true ∧ pressed = true
    · obtain ⟨hw, rfl⟩ := hwake
      obtain ⟨t, hs, hes, hreply, hk, hv, hwt, hkeep⟩ := step_press hi hlt hw
      obtain ⟨hself, hother⟩ := hkeys hlt hk
      exact ⟨t, hs, hes, fun hgt => absurd hgt hle, fun _ => ⟨hreply, hself, hother,
        fun _ => ⟨toNat_reg_of_v_eq_setReg hlt hv, hwt, keepsRegsBut_of_v_eq_setReg hv, hkeep⟩,
        fun hn => by simp [hw] at hn⟩⟩
    · have hn : s.wait = false ∨ pressed = false := by
        simpa only [not_and_or, Bool.not_eq_true] using hwake
      obtain ⟨t, hs, hes, hreply, hk, hkeep⟩ := step_recordKey hi hlt hn
      obtain ⟨hself, hother⟩ := hkeys hlt hk
      exact ⟨t, hs, hes, fun hgt => absurd hgt hle, fun _ => ⟨hreply, hself, hother,
        fun h => absurd h hwake, fun _ => hkeep⟩⟩
  · obtain ⟨t, hs, hes, hreply, hkeep⟩ := step_setKey_of_ge hi hge
    exact ⟨t, hs, hes, fun _ => ⟨hreply, hkeep⟩, fun hle => by omega⟩

/-! ### The press that ends a blocking-wait -/

/-- Through events that keep the wait, a run leaves the wait, `PC` and the V registers; what the run does
after them it does from the state reached. -/
theorem run_waiting {es rest : List Event} {s : State} (hw : s.wait = true)
    (hi : s.inputs = es ++ rest) (hk : ∀ e ∈ es, e.keepsWait = true) :
    ∃ t : State, (∀ n, Sys2Proof.core.run (n + es.length) s = Sys2Proof.core.run n t) ∧
      t.inputs = rest ∧ t.wait = true ∧ t.waitReg = s.waitReg ∧ t.pc = s.pc ∧ t.v = s.v := by
  induction es generalizing s with
  | nil => exact ⟨s, fun _ => rfl, hi, hw, rfl, rfl, rfl⟩
  | cons e es ih =>
    obtain ⟨hke, hkes⟩ := List.forall_mem_cons.mp hk
    have hhead : ∀ e ∈ s.inputs.head?, e.keepsWait = true := by simpa [hi] using hke
    obtain ⟨u, hu, hui, huw, hureg, hupc, huv⟩ := step_waiting hw hhead
    have hrest : u.inputs = es ++ rest := by simp [hui, hi]
    obtain ⟨t, ht, hti, htw, htreg, htpc, htv⟩ := ih huw hrest hkes
    exact ⟨t, fun n => (run_succ hu (n + es.length)).trans (ht n), hti, htw, htreg.trans hureg,
      htpc.trans hupc, htv.trans huv⟩

/-- Settles O42: `run_waiting` up to the press, `step_press` for it. -/
theorem waitEndsAtKeyPress : Obligations.WaitEndsAtKeyPress := by
  intro s es rest k hw _ hlt hi hk
  obtain ⟨t, hrun, hti, htw, htreg, htpc, htv⟩ := run_waiting hw hi hk
  obtain ⟨u, hu, hui, _, _, huv, huw, hkeep⟩ := step_press hti hlt htw
  have hrun0 : Sys2Proof.core.run es.length s = .next t := Nat.zero_add es.length ▸ hrun 0
  have hrun1 : Sys2Proof.core.run (es.length + 1) s = .next u :=
    Nat.add_comm 1 es.length ▸ (hrun 1).trans (run_succ hu 0)
  have hupc : u.pc = s.pc := (hkeep .pc (by decide)).trans htpc
  rw [htreg, State.setReg_v, htv] at huv
  exact ⟨t, u, hrun0, htw, htpc, htv, hrun1, huw, hupc, toNat_reg_of_v_eq_setReg hlt huv,
    keepsRegsBut_of_v_eq_setReg huv, hui⟩

end Sys2Proof.Machine
end

section
/-! PROOF. What a Cycle executes, and what it does not read: O1, O2, O15, O50. -/

namespace Sys2Proof.Machine

/-- Settles O2: the start of such a Cycle is over at once. -/
theorem haltedOrWaitingCycleChangesNothing : Obligations.HaltedOrWaitingCycleChangesNothing := by
  intro s hc h
  obtain ⟨r, hs, _⟩ := startStep_cycle hc
  exact step_done (hs.trans (startCycle_idle (s := s.dropEvent) h))

/-- Settles O1: the fetch reads the two bytes at `PC`. -/
theorem stepRunsDecodedInstruction : Obligations.StepRunsDecodedInstruction :=
  fun _ _ hc hf hw hpc hd => step_fetch_instr hc hf hw (fetchWord_of_le hpc) hd

/-! ### A placed word -/

theorem fetchPlace_le (s : State) : (fetchPlace s).toNat ≤ 0xFFE := by
  unfold fetchPlace
  split
  · decide
  · next h =>
    have := outOfRange_eq_false.mp (Bool.not_eq_true _ ▸ h)
    omega

/-- The next fetch reads the two bytes that were placed, the first above the second. -/
theorem fetchWord_placeAtFetch (s : State) (hi lo : Byte) :
    fetchWord (placeAtFetch s [hi, lo]) = some (wordOfBytes hi lo) :=
  (fetchWord_of_le (s := placeAtFetch s [hi, lo]) (fetchPlace_le s)).trans
    (congrArg some (congrArg₂ wordOfBytes
      (readByte_writeBytes_inside [hi, lo] s.mem _ 0 Nat.zero_lt_two)
      (readByte_writeBytes_inside [hi, lo] s.mem _ 1 Nat.one_lt_two)))

/-- The next fetch reads a placed word whole. -/
theorem fetchWord_withFetchWord (s : State) (w : Nat) :
    fetchWord (s.withFetchWord 16 w) = some (BitVec.ofNat 16 (w % 2 ^ 16)) :=
  (fetchWord_placeAtFetch s _ _).trans (congrArg some (wordOfBytes_bytesOfWord _))

/-- A table word that decodes is a word that decodes. -/
theorem decode_of_decodeTableWord {w : Nat} {i : Instr} (h : decodeTableWord 16 w = some i) :
    decode (BitVec.ofNat 16 (w % 2 ^ 16)) = .instr i := by
  simp only [decodeTableWord, tableBytes, decodeBytes_bytesOfWord, Nat.lt_irrefl, if_false] at h
  cases hd : decode (BitVec.ofNat 16 (w % 2 ^ 16)) with
  | instr j => rw [hd] at h; cases h; rfl
  | decodeError bad => rw [hd] at h; cases h

/-- Settles O15: the placed state's next step fetches the word, and the state in which it executes is the
placed state itself. -/
theorem placedWordRunsNext : Obligations.PlacedWordRunsNext := fun s w _ h =>
  step_fetch_instr (s := s.withFetchWord 16 w) (.inl rfl) rfl rfl (fetchWord_withFetchWord s w)
    (decode_of_decodeTableWord h)

/-! ### The random byte -/

/-- `s` with another `rnd` byte at hand and another number of the next free value. -/
def State.withRnd (s : State) (r : Option Byte) (d : Nat) : State := { s with rnd := r, draws := d }

section
variable {s : State} {r : Option Byte} {d : Nat}

theorem storeAtIndex_withRnd (bs : List Byte) :
    ∃ u, storeAtIndex bs s = .next u ∧ storeAtIndex bs (s.withRnd r d) = .next (u.withRnd r d) := by
  by_cases h : outOfRange (dataAddress s.i 0) bs.length = true
  · exact ⟨_, if_pos h, if_pos h⟩
  · exact ⟨_, if_neg h, if_neg h⟩

theorem execRet_withRnd :
    ∃ u, execRet s = .next u ∧ execRet (s.withRnd r d) = .next (u.withRnd r d) := by
  rcases execRet_cases s with ⟨hsp, hs⟩ | ⟨hsp, hs⟩ <;>
    rcases execRet_cases (s.withRnd r d) with ⟨hsp', ht⟩ | ⟨hsp', ht⟩
  · exact ⟨_, hs, ht⟩
  · exact absurd hsp (Nat.ne_of_gt hsp')
  · exact absurd hsp' (Nat.ne_of_gt hsp)
  · exact ⟨_, hs, ht⟩

theorem execCall_withRnd (nnn : Addr12) :
    ∃ u, execCall nnn s = .next u ∧ execCall nnn (s.withRnd r d) = .next (u.withRnd r d) := by
  rcases execCall_cases nnn s with ⟨hsp, hs⟩ | ⟨hsp, hs⟩ <;>
    rcases execCall_cases nnn (s.withRnd r d) with ⟨hsp', ht⟩ | ⟨hsp', ht⟩
  · exact ⟨_, hs, ht⟩
  · exact absurd hsp (Nat.ne_of_lt hsp')
  · exact absurd hsp' (Nat.ne_of_lt hsp)
  · exact ⟨_, hs, ht⟩

/-- An instruction that draws no random byte reads neither it nor the number of the next one. -/
theorem exec_withRnd {i : Instr} (hi : ∀ x nn, i ≠ .rnd x nn) :
    ∃ u, exec i s = .next u ∧ exec i (s.withRnd r d) = .next (u.withRnd r d) := by
  cases i with
  | rnd x nn => exact absurd rfl (hi x nn)
  | cls | jp | seImm | sneImm | seReg | ldImm | addImm | ldReg | orReg | andReg | xorReg | addReg
  | subReg | shr | subnReg | shl | sneReg | ldI | jpV0 | skp | sknp | ldVxDt | ldVxK | ldDtVx | ldStVx
  | addI | ldF => exact ⟨_, rfl, rfl⟩
  | ret => exact execRet_withRnd
  | call nnn => exact execCall_withRnd nnn
  | ldB x => exact storeAtIndex_withRnd (bcdDigits (s.reg x))
  | dumpRegs x => exact storeAtIndex_withRnd (s.v.toList.take (dumpCount x))
  | loadRegs x =>
    by_cases h : outOfRange (dataAddress s.i 0) (dumpCount x) = true
    · exact ⟨_, if_pos h, if_pos h⟩
    · exact ⟨_, if_neg h, if_neg h⟩
  | drw x y n =>
    by_cases h : outOfRange (dataAddress s.i 0) n.toNat = true
    · exact ⟨_, if_pos h, if_pos h⟩
    · exact ⟨_, if_neg h, if_neg h⟩

end

/-- Settles O50: every instruction but CXNN is one that `exec_withRnd` speaks of. -/
theorem onlyRndReadsTheRandomByte : Obligations.OnlyRndReadsTheRandomByte := by
  intro i s t r d hi h
  obtain ⟨u, hs, ht⟩ := exec_withRnd (s := s) (r := r) (d := d) hi
  cases hs.symm.trans h
  exact ht

end Sys2Proof.Machine
end

section
/-! PROOF. Control transfer and skips (41_flow.md): O20, O21, O22, O23, O24, O25, O26. -/

namespace Sys2Proof.Machine

/-! ### The fetch after a transfer beyond memory (R140) -/

/-- A transfer to 0xFFF or 0x1000 is no fault itself; the fetch there names 0x1000, the first address
outside memory. -/
theorem nextCycleRaises_0x1000 {t : State} (hpc : t.pc = 0xFFF ∨ t.pc = 0x1000) :
    NextCycleRaises t .memoryFault 0x1000 := by
  have hbeyond : 0xFFE < t.pc.toNat := by rcases hpc with h | h <;> rw [h] <;> decide
  have hinfo : firstOutside t.pc = 0x1000 := by rcases hpc with h | h <;> rw [h] <;> rfl
  exact hinfo ▸ fetchBeyondMemoryRaisesMemoryFault t hbeyond

/-! ### 00EE and 2NNN -/

section
variable {s : State}

/-- 00EE on a stack that holds an entry pops the newest one into `PC` (R141). -/
theorem exec_ret_of_pos (h : 0 < s.sp.val) :
    ∃ t, exec .ret s = .next t ∧ t.sp.val = s.sp.val - 1 ∧ s.stack[s.sp.val - 1]? = some t.pc ∧
      t.stack = s.stack ∧ KeepsAllBut [.pc, .sp, .stack] s t := by
  rcases execRet_cases s with ⟨hempty, _⟩ | ⟨_, hret⟩
  · exact absurd hempty (Nat.ne_of_gt h)
  · exact ⟨_, hret, rfl, Vector.getElem?_eq_getElem _, rfl,
      WritesOnly.keepsAllBut (by constructor <;> simp)⟩

theorem exec_ret_of_empty (h : s.sp.val = 0) :
    exec .ret s = .next (s.raise .stackUnderflow s.pc) := by
  rcases execRet_cases s with ⟨_, hret⟩ | ⟨hpos, _⟩
  · exact hret
  · exact absurd h (Nat.ne_of_gt hpos)

/-- 2NNN on a stack with room pushes `a + 2` and goes to NNN (R143). -/
theorem exec_call_of_lt (nnn : Addr12) (h : s.sp.val < 16) :
    ∃ t, exec (.call nnn) s = .next t ∧ t.pc = addressOf nnn ∧ t.sp.val = s.sp.val + 1 ∧
      t.stack = s.stack.set s.sp.val (s.pc + 2) ∧ KeepsAllBut [.pc, .sp, .stack] s t := by
  rcases execCall_cases nnn s with ⟨hfull, _⟩ | ⟨_, hcall⟩
  · exact absurd hfull (Nat.ne_of_lt h)
  · exact ⟨_, hcall, rfl, rfl, rfl, WritesOnly.keepsAllBut (by constructor <;> simp)⟩

theorem exec_call_of_full (nnn : Addr12) (h : s.sp.val = 16) :
    exec (.call nnn) s = .next (s.raise .stackOverflow s.pc) := by
  rcases execCall_cases nnn s with ⟨_, hcall⟩ | ⟨hroom, _⟩
  · exact hcall
  · exact absurd h (Nat.ne_of_lt hroom)

end

/-- Settles O20: RET pops, or raises on an empty stack; a popped 0x1000 is beyond the last fetch. -/
theorem retPopsOrUnderflows : Obligations.RetPopsOrUnderflows := by
  refine fun s => ⟨fun hpos => ?_, fun hempty => ⟨_, exec_ret_of_empty hempty, raise_raises _ _ _⟩⟩
  obtain ⟨t, ht, hsp, htop, hstack, hkeep⟩ := exec_ret_of_pos hpos
  exact ⟨t, ht, hsp, htop, fun j _ => by rw [hstack], fun hpc => nextCycleRaises_0x1000 (.inr hpc),
    hkeep⟩

/-- Settles O22: CALL writes one slot of the stack, or raises on a full one. -/
theorem callPushesReturnAddress : Obligations.CallPushesReturnAddress := by
  refine fun nnn s => ⟨fun hroom => ?_,
    fun hfull => ⟨_, exec_call_of_full nnn hfull, raise_raises _ _ _⟩⟩
  obtain ⟨t, ht, hpc, hsp, hstack, hkeep⟩ := exec_call_of_lt nnn hroom
  refine ⟨t, ht, hpc ▸ addressOf_toNat nnn, hsp, ?_, fun j hj => ?_, hkeep⟩
  · rw [hstack, Vector.getElem?_set_self hroom]
  · rw [hstack, Vector.getElem?_set_ne hroom hj.symm]

/-- Settles O23: the entry that RET pops is in the slot that CALL wrote, and the slots below it are as
they were before the call. -/
theorem retAfterCallComesBack : Obligations.RetAfterCallComesBack := by
  intro nnn s hroom
  obtain ⟨t, ht, _, hsp, hstack, _⟩ := exec_call_of_lt nnn hroom
  refine ⟨t, ht, fun t' hsp' hvalid => ?_⟩
  have hdepth : t'.sp.val = s.sp.val + 1 := hsp' ▸ hsp
  obtain ⟨u, hu, husp, hutop, hustack, hkeep⟩ := exec_ret_of_pos (s := t') (by omega)
  have hpopped : t'.stack[s.sp.val]? = some u.pc := by simpa [hdepth] using hutop
  have hpushed : t'.stack[s.sp.val]? = some (s.pc + 2) := by
    rw [hvalid _ (by omega), hstack, Vector.getElem?_set_self hroom]
  refine ⟨u, hu, Option.some.inj (hpopped.symm.trans hpushed), Fin.ext (by omega), fun j hj => ?_,
    hkeep⟩
  rw [hustack, hvalid j (by omega), hstack, Vector.getElem?_set_ne hroom (Nat.ne_of_gt hj)]

/-! ### 1NNN and BNNN -/

theorem jumpTo_keepsAllBut (s : State) (a : Word) : KeepsAllBut [.pc] s (s.jumpTo a) :=
  WritesOnly.keepsAllBut (by constructor <;> simp)

theorem jumpTo_pc_self (s : State) : s.jumpTo s.pc = s := rfl

/-- Settles O21: the target is NNN; 0xFFF is beyond the last fetch. -/
theorem jumpSetsPc : Obligations.JumpSetsPc := by
  refine fun nnn s => ⟨s.jumpTo (addressOf nnn), rfl, addressOf_toNat nnn, jumpTo_keepsAllBut s _,
    fun hself => ?_, fun hnnn => ?_⟩
  · have htarget : addressOf nnn = s.pc := BitVec.eq_of_toNat_eq ((addressOf_toNat nnn).trans hself)
    rw [htarget, jumpTo_pc_self]
  · subst hnnn
    exact nextCycleRaises_0x1000 (.inl rfl)

/-- Settles O26: the target is the sum; the fetch there raises when nothing can be fetched. -/
theorem offsetJumpSetsPc : Obligations.OffsetJumpSetsPc := fun nnn s =>
  ⟨s.jumpTo (offsetAddress (s.reg 0) nnn), rfl, offsetAddress_toNat _ nnn, jumpTo_keepsAllBut s _,
    fetchBeyondMemoryRaisesMemoryFault _⟩

/-! ### The skips -/

/-- What a skip instruction does whose test decides P (R140). -/
theorem skipIf_spec (s : State) {c : Bool} {P : Prop} [Decidable P] (hc : c = true ↔ P) :
    KeepsAllBut [.pc] s (s.skipIf c) ∧ (s.skipIf c).pc = if P then s.pc + 4 else s.pc + 2 :=
  ⟨WritesOnly.keepsAllBut (by constructor <;> simp), by simp [hc]⟩

/-- Settles O24: each test decides its comparison. -/
theorem skipsOnImmediate : Obligations.SkipsOnImmediate := fun _ _ s =>
  ⟨⟨_, rfl, skipIf_spec s beq_iff_eq⟩, ⟨_, rfl, skipIf_spec s bne_iff_ne⟩⟩

/-- A low nibble other than 0 is rejected under the decided `STRICT_LOW_NIBBLE` (R96, D3). -/
theorem decodeLowNibbleZero_of_ne {op : Word} (h : fieldN op ≠ 0) (i : Instr) :
    decodeLowNibbleZero op i = .decodeError op := by
  rw [decodeLowNibbleZero_eq, if_neg h]

/-- Settles O25: each test decides its comparison, and both formats have a strict low nibble. -/
theorem skipsOnRegisters : Obligations.SkipsOnRegisters := by
  refine fun x y s => ⟨⟨_, rfl, skipIf_spec s beq_iff_eq⟩, ⟨_, rfl, skipIf_spec s bne_iff_ne⟩,
    fun n hn => ?_⟩
  have hlow (t : Nibble) : fieldN (formatXYN t x y n) ≠ 0 := by
    rw [fieldN_formatXYN]
    exact hn
  exact ⟨(decode_T5 (fieldT_formatXYN _ x y n)).trans (decodeLowNibbleZero_of_ne (hlow _) _),
    (decode_T9 (fieldT_formatXYN _ x y n)).trans (decodeLowNibbleZero_of_ne (hlow _) _)⟩

end Sys2Proof.Machine
end

section
/-! PROOF. Register load, arithmetic, logic, shifts and random (42_alu.md): O27, O28, O29, O30, O31,
O32. -/

namespace Sys2Proof.Machine

/-! ### The two shared tails -/

/-- A write without a flag leaves VF, unless it is the destination. -/
theorem writeAndAdvance_spec (x : Reg) (b : Byte) (s : State) :
    ∃ t, writeAndAdvance x b s = .next t ∧ t.reg x = b ∧ t.pc = s.pc + 2 ∧ KeepsRegsBut [x] s t ∧
      KeepsAllBut [.v, .pc] s t :=
  ⟨_, writeAndAdvance_eq x b s, by simp, rfl, keepsRegsBut_of_v_eq_setReg rfl,
    WritesOnly.keepsAllBut (by constructor <;> simp)⟩

section
variable {x : Reg} {b : Byte} {f : Bool} {n : Nat} {s : State}

theorem keepsRegsBut_setResultFlag (x : Reg) (b : Byte) (f : Bool) (s : State) :
    KeepsRegsBut [x, VF] s (s.setResultFlag x b f) := by
  intro r hr
  simp only [List.mem_cons, List.not_mem_nil, or_false, not_or] at hr
  rw [State.reg_setResultFlag, if_neg hr.2, if_neg hr.1]

/-- A write with a flag: the flag is written last, so the result stands only in a destination other
than VF (R161, D4). -/
theorem writeFlagAndAdvance_spec (s : State) (f : Bool) (hb : b.toNat = n) :
    ∃ t, writeFlagAndAdvance x b f s = .next t ∧ t.reg VF = (if f then 0x01 else 0x00) ∧
      (x ≠ VF → (t.reg x).toNat = n) ∧
      t.pc = s.pc + 2 ∧ KeepsRegsBut [x, VF] s t ∧ KeepsAllBut [.v, .pc] s t :=
  ⟨_, writeFlagAndAdvance_eq x b f s, by simp, fun hx => by simp [hx, hb], rfl,
    keepsRegsBut_setResultFlag x b f s, WritesOnly.keepsAllBut (by constructor <;> simp)⟩

/-- `writeFlagAndAdvance_spec` for a flag that decides P. -/
theorem writeFlagAndAdvance_of_iff {P : Prop} [Decidable P] (hb : b.toNat = n) (hf : f = true ↔ P) :
    ∃ t, writeFlagAndAdvance x b f s = .next t ∧ t.reg VF = (if P then 0x01 else 0x00) ∧
      (x ≠ VF → (t.reg x).toNat = n) ∧
      t.pc = s.pc + 2 ∧ KeepsRegsBut [x, VF] s t ∧ KeepsAllBut [.v, .pc] s t := by
  obtain ⟨t, ht, hvf, hrest⟩ := writeFlagAndAdvance_spec (x := x) s f hb
  exact ⟨t, ht, hvf.trans (if_congr hf rfl rfl), hrest⟩

/-- `writeFlagAndAdvance_spec` for a flag that is one bit of a number. -/
theorem writeFlagAndAdvance_of_bit {k : Nat} (hb : b.toNat = n) (hf : f.toNat = k) :
    ∃ t, writeFlagAndAdvance x b f s = .next t ∧ (t.reg VF).toNat = k ∧
      (x ≠ VF → (t.reg x).toNat = n) ∧
      t.pc = s.pc + 2 ∧ KeepsRegsBut [x, VF] s t ∧ KeepsAllBut [.v, .pc] s t := by
  obtain ⟨t, ht, hvf, hrest⟩ := writeFlagAndAdvance_spec (x := x) s f hb
  refine ⟨t, ht, ?_, hrest⟩
  rw [hvf, ← hf]
  cases f <;> rfl

end

/-! ### Results and flags as numbers -/

theorem subtractBytes_toNat_mod (a b : Byte) :
    (subtractBytes a b).toNat = (a.toNat + 256 - b.toNat) % 256 := by
  have ha := a.isLt
  rw [subtractBytes_toNat]
  split <;> omega

theorem shiftRightFlag_toNat (b : Byte) : (shiftRightFlag b).toNat = b.toNat % 2 := by
  rw [shiftRightFlag, BitVec.getLsbD, Nat.toNat_testBit, Nat.pow_zero, Nat.div_one]

theorem shiftLeftFlag_toNat (b : Byte) : (shiftLeftFlag b).toNat = b.toNat / 128 := by
  have hb := b.isLt
  rw [shiftLeftFlag, BitVec.getLsbD, Nat.toNat_testBit]
  omega

theorem toNat_shiftRight_one (b : Byte) : (b >>> 1).toNat = b.toNat / 2 := by
  rw [BitVec.toNat_ushiftRight, Nat.shiftRight_one]

theorem toNat_shiftLeft_one (b : Byte) : (b <<< 1).toNat = b.toNat * 2 % 256 := by
  rw [BitVec.toNat_shiftLeft, Nat.shiftLeft_eq]

/-! ### The instructions -/

/-- Settles O29: the flag decides the carry. -/
theorem addRegistersSetsCarry : Obligations.AddRegistersSetsCarry := fun _ _ _ =>
  writeFlagAndAdvance_of_iff (BitVec.toNat_ofNat _ 8) decide_eq_true_iff

/-- Settles O30: SUBN is SUB with the operands exchanged. -/
theorem subtractsSetNoBorrow : Obligations.SubtractsSetNoBorrow := fun _ _ _ =>
  ⟨writeFlagAndAdvance_of_iff (subtractBytes_toNat_mod _ _) decide_eq_true_iff,
    writeFlagAndAdvance_of_iff (subtractBytes_toNat_mod _ _) decide_eq_true_iff⟩

/-- Settles O31: the operand shifted is `VX` whatever Y is, and the flag is its outermost bit. -/
theorem shiftsSetShiftedOutBit : Obligations.ShiftsSetShiftedOutBit := fun _ _ _ =>
  ⟨writeFlagAndAdvance_of_bit (toNat_shiftRight_one _) (shiftRightFlag_toNat _),
    writeFlagAndAdvance_of_bit (toNat_shiftLeft_one _) (shiftLeftFlag_toNat _)⟩

/-- Settles O27: both are the write without a flag. -/
theorem loadAndAddImmediate : Obligations.LoadAndAddImmediate := by
  refine fun x nn s => ⟨writeAndAdvance_spec x nn s, ?_⟩
  obtain ⟨t, ht, hx, hrest⟩ :=
    writeAndAdvance_spec x (BitVec.ofNat 8 ((s.reg x).toNat + nn.toNat)) s
  exact ⟨t, ht, hx ▸ BitVec.toNat_ofNat _ 8, hrest⟩

/-- Settles O28: all four are the write without a flag, logic by the decided `LOGIC_WRITES_VF` (D6). -/
theorem copyAndLogicLeaveVf : Obligations.CopyAndLogicLeaveVf := fun x _ s =>
  ⟨writeAndAdvance_spec x _ s, writeAndAdvance_spec x _ s, writeAndAdvance_spec x _ s,
    writeAndAdvance_spec x _ s⟩

theorem State.rndByte_of_rnd {s : State} {r : Byte} (h : s.rnd = some r) : s.rndByte = r := by
  rw [State.rndByte, h, Option.getD_some]

/-- Settles O32: the byte is `State.rndByte`. -/
theorem randomByteIsMasked : Obligations.RandomByteIsMasked := fun x nn s =>
  ⟨_, s.rndByte, rfl, fun _ => State.rndByte_of_rnd, by simp, rfl, keepsRegsBut_of_v_eq_setReg rfl,
    WritesOnly.keepsAllBut (by constructor <;> simp)⟩

end Sys2Proof.Machine
end

section
/-! PROOF. The index register and memory (43_index_memory.md): O33, O34, O35, O36, O37. -/

namespace Sys2Proof.Machine

/-! ### ANNN, FX29 and FX1E -/

/-- A write of `I` is the whole of an instruction that computes an address. -/
theorem setIndexAndAdvance_spec {w : Word} {n : Nat} (s : State) (hw : w.toNat = n) :
    ∃ t, setIndexAndAdvance w s = .next t ∧ t.i.toNat = n ∧ t.pc = s.pc + 2 ∧
      KeepsAllBut [.i, .pc] s t :=
  ⟨_, setIndexAndAdvance_eq w s, hw, rfl, WritesOnly.keepsAllBut (by constructor <;> simp)⟩

/-- The address of the last glyph is below 2^16, so no glyph's is reduced. -/
theorem glyphAddress_toNat (vx : Byte) : (glyphAddress vx).toNat = 5 * (vx.toNat % 16) := by
  have hnibble : vx.toNat % 16 < 16 := Nat.mod_lt _ (by decide)
  rw [glyphAddress, BitVec.toNat_ofNat, Config.glyphBytes, Nat.mod_eq_of_lt (by omega)]

/-- Settles O33: both write `I` alone. -/
theorem indexLoads : Obligations.IndexLoads :=
  ⟨fun nnn s => setIndexAndAdvance_spec s (addressOf_toNat nnn),
    fun x s => setIndexAndAdvance_spec s (glyphAddress_toNat (s.reg x))⟩

/-- Settles O34: the sum and the flag are both of the state before the write, so X may be VF. -/
theorem addToIndexSetsFlag : Obligations.AddToIndexSetsFlag := by
  refine fun x s => ⟨_, execAddI_eq x s, BitVec.toNat_ofNat _ 16, ?_, rfl,
    keepsRegsBut_of_v_eq_setReg rfl, WritesOnly.keepsAllBut (by constructor <;> simp)⟩
  calc (s.setFlag (indexFlag s.i (s.reg x))).reg VF
      = if indexFlag s.i (s.reg x) then 0x01 else 0x00 :=
        (s.reg_setFlag _ VF).trans (if_pos rfl)
    _ = if 0x0FFF < s.i.toNat + (s.reg x).toNat then 0x01 else 0x00 :=
        if_congr decide_eq_true_iff rfl rfl

/-! ### A store through `I` and its range check -/

/-- The fault of an access through `I` names the first address outside memory (R211). -/
theorem raiseMemory_i_raises (s : State) :
    Raises s (s.raiseMemory s.i.toNat) .memoryFault (firstOutside s.i) :=
  firstOutside_eq s.i ▸ raiseMemory_raises s s.i.toNat

/-- What FX33 and FX55 do with their `k + 1` bytes (R184, R185): when the last one is inside memory,
byte j goes to `I + j` and no other address changes; otherwise they raise and store none. -/
theorem storeAtIndex_spec {bs : List Byte} {k : Nat} (s : State) (hlen : bs.length = k + 1) :
    (s.i.toNat + k ≤ 0xFFF → ∃ t, storeAtIndex bs s = .next t ∧
      (∀ j b, bs[j]? = some b → readByte t.mem (dataAddress s.i j) = b) ∧
      (∀ a, a < dataAddress s.i 0 ∨ dataAddress s.i 0 + (k + 1) ≤ a →
        readByte t.mem a = readByte s.mem a) ∧
      t.pc = s.pc + 2 ∧ KeepsAllBut [.mem, .pc] s t) ∧
    (0xFFF < s.i.toNat + k → ∃ t, storeAtIndex bs s = .next t ∧
      Raises s t .memoryFault (firstOutside s.i)) := by
  rcases storeAtIndex_cases bs s with ⟨hout, hs⟩ | ⟨hin, hs⟩
  · rw [outOfRange_eq_true] at hout
    exact ⟨fun hfits => by omega, fun _ => ⟨_, hs, raiseMemory_i_raises s⟩⟩
  · rw [outOfRange_eq_false] at hin
    refine ⟨fun _ => ⟨_, hs, fun j b hj => readByte_writeBytes_getElem? hj s.mem s.i.toNat,
      fun a ha => ?_, rfl, WritesOnly.keepsAllBut (by constructor <;> simp)⟩, fun hout => by omega⟩
    exact readByte_writeBytes_outside bs s.mem s.i.toNat a (hlen ▸ ha)

/-! ### FX33, FX55 and FX65 -/

/-- Settles O35: the three bytes stored are the digits, each of which fits its byte. -/
theorem bcdStoresThreeDigits : Obligations.BcdStoresThreeDigits := by
  intro x s
  obtain ⟨hfits, hout⟩ := storeAtIndex_spec s (length_bcdDigits (s.reg x))
  refine ⟨fun hle => ?_, hout⟩
  obtain ⟨t, ht, hbytes, hrest⟩ := hfits hle
  have hvx := (s.reg x).isLt
  have hdigit {j d : Nat} (hj : (bcdDigits (s.reg x))[j]? = some (BitVec.ofNat 8 d)) (hd : d < 256) :
      (readByte t.mem (dataAddress s.i j)).toNat = d := by
    rw [hbytes j _ hj, BitVec.toNat_ofNat, Nat.mod_eq_of_lt hd]
  exact ⟨t, ht, hdigit rfl (by omega), hdigit rfl (by omega), hdigit rfl (by omega), hrest⟩

/-- Settles O36: the sixteen bytes stored are the registers, under the decided `DUMP_RANGE` (D8). -/
theorem dumpStoresAllRegisters : Obligations.DumpStoresAllRegisters := by
  intro x s
  obtain ⟨hfits, hout⟩ := storeAtIndex_spec s (length_dumpBytes s)
  refine ⟨fun hle => ?_, hout⟩
  obtain ⟨t, ht, hbytes, hrest⟩ := hfits hle
  have hreg (r : Reg) : (s.v.toList.take 16)[r.val]? = some (s.reg r) :=
    List.getElem?_eq_some_iff.mpr ⟨(length_dumpBytes s).symm ▸ r.isLt, getElem_dumpBytes s r _⟩
  exact ⟨t, ht, fun r => hbytes r.val _ (hreg r), hrest⟩

/-- Settles O37: `execLoadRegs_cases` says which of the two FX65 does. -/
theorem loadFillsAllRegisters : Obligations.LoadFillsAllRegisters := by
  intro x s
  rcases execLoadRegs_cases x s with ⟨hout, h⟩ | ⟨hfits, v, hv, h⟩
  · exact ⟨fun hle => by omega, fun _ => ⟨_, h, raiseMemory_i_raises s⟩⟩
  · exact ⟨fun _ => ⟨_, h, hv, rfl, WritesOnly.keepsAllBut (by constructor <;> simp)⟩,
      fun hlt => by omega⟩

end Sys2Proof.Machine
end

section
/-! PROOF. Keypad and timer instructions (44_keypad_timers.md): O38, O39, O40, O41. -/

namespace Sys2Proof.Machine

/-- Settles O38: each test decides the level of the key that R190 numbers (D10). -/
theorem keySkipsTestLowNibble : Obligations.KeySkipsTestLowNibble := by
  intro x s down hdown
  obtain rfl : s.keyDown (keyOf (s.reg x)) = down :=
    Option.some.inj ((getElem?_keys_keyOf s (s.reg x)).symm.trans hdown)
  exact ⟨⟨_, rfl, skipIf_spec s Iff.rfl⟩, ⟨_, rfl, skipIf_spec s (iff_of_eq (Bool.not_eq_true' _))⟩⟩

/-- Settles O39: FX07 is the write without a flag; a Tick decrements the `DT` that FX15 left. -/
theorem delayTimerMoves : Obligations.DelayTimerMoves := by
  refine fun x s => ⟨writeAndAdvance_spec x s.dt s, _, rfl, rfl, rfl,
    WritesOnly.keepsAllBut (by constructor <;> simp), fun es hi => ?_⟩
  obtain ⟨u, hu, _, hdt, _⟩ := tickDecrementsEachTimer _ es hi
  exact ⟨u, hu, hdt⟩

/-- Settles O40: the sound output decides whether the new `ST` is above 0. -/
theorem soundTimerWrite : Obligations.SoundTimerWrite := fun _ _ =>
  ⟨_, rfl, rfl, rfl, decide_eq_true_iff, WritesOnly.keepsAllBut (by constructor <;> simp)⟩

/-- Settles O41: the register file is not among the parts written. -/
theorem awaitKeyEntersWait : Obligations.AwaitKeyEntersWait := fun _ _ =>
  ⟨_, rfl, rfl, rfl, rfl, WritesOnly.keepsAllBut (by constructor <;> simp)⟩

end Sys2Proof.Machine
end

section
/-! PROOF. Display instructions (45_display.md): O43, O44, O45. -/

namespace Sys2Proof.Machine

/-! ### The sprite's 1 bits and the pixels that the blitter covers -/

/-- Column c of a sprite drawn at `VX mod 64` falls where R202 puts it. -/
theorem spriteCol_startCol_eq_iff {vx : Byte} {px : Col} {c : Nat} (hc : c < 64) :
    spriteCol (startCol vx) px = c ↔ px.val = (vx.toNat % 64 + c) % 64 := by
  have hpx := px.isLt
  simp only [spriteCol, startCol]
  omega

/-- Row r of a sprite drawn at `VY mod 32` falls where R202 puts it. -/
theorem spriteLine_startRow_eq_iff {vy : Byte} {py : Row} {r : Nat} (hr : r < 32) :
    spriteLine (startRow vy).val py = r ↔ py.val = (vy.toNat % 32 + r) % 32 := by
  have hpy := py.isLt
  simp only [spriteLine, startRow, wrapRow]
  omega

/-- A sprite read from memory covers a pixel exactly when its byte for that line covers the column. -/
theorem spriteCovers_readBytes {m : Memory} {a n y0 : Nat} {x0 px : Col} {py : Row} :
    spriteCovers (readBytes m a n) x0 y0 px py = true ↔
      spriteLine y0 py < n ∧ byteCovers (readByte m (a + spriteLine y0 py)) x0 px = true := by
  by_cases h : spriteLine y0 py < n
  · simp [spriteCovers, h, getElem_readBytes]
  · simp [spriteCovers, h]

section
variable {x y : Reg} {n : Nibble} {s : State} {px : Col} {py : Row}

/-- The sprite's 1 bits are on the pixels that the blitter covers: the row and the column of R202 are the
ones that the blitter computes back from the pixel. -/
theorem spriteCovers_iff_spriteSets :
    spriteCovers (readBytes s.mem s.i.toNat n.toNat) (startCol (s.reg x)) (startRow (s.reg y)).val
      px py = true ↔ SpriteSets s x y n px py := by
  have hn := n.isLt
  simp only [spriteCovers_readBytes, byteCovers, Bool.and_eq_true, decide_eq_true_eq]
  constructor
  · rintro ⟨hr, hc, hbit⟩
    exact ⟨_, _, hr, hc, (spriteCol_startCol_eq_iff (by omega)).mp rfl,
      (spriteLine_startRow_eq_iff (by omega)).mp rfl, hbit⟩
  · rintro ⟨r, c, hr, hc, hpx, hpy, hbit⟩
    rw [(spriteCol_startCol_eq_iff (by omega)).mpr hpx,
      (spriteLine_startRow_eq_iff (by omega)).mpr hpy]
    exact ⟨hr, hc, hbit⟩

theorem pixel_spriteBlit_of_spriteSets (h : SpriteSets s x y n px py) :
    pixel (spriteBlit x y n s).fb px py = !pixel s.fb px py := by
  rw [pixel_spriteBlit, spriteCovers_iff_spriteSets.mpr h, Bool.xor_true]

theorem pixel_spriteBlit_of_not_spriteSets (h : ¬ SpriteSets s x y n px py) :
    pixel (spriteBlit x y n s).fb px py = pixel s.fb px py := by
  rw [pixel_spriteBlit, Bool.eq_false_iff.mpr (mt spriteCovers_iff_spriteSets.mp h), Bool.xor_false]

theorem collision_spriteBlit_iff_spriteSets :
    (spriteBlit x y n s).collision = true ↔
      ∃ px py, SpriteSets s x y n px py ∧ pixel s.fb px py = true := by
  simp only [collision_spriteBlit, spriteCovers_iff_spriteSets, and_comm]

/-- Which 1 bits fall where rests on `N`, the sprite's bytes and the reduced coordinates alone. -/
theorem spriteSets_congr {s' : State} (hi : s'.i = s.i)
    (hbytes : ∀ r, r < n.toNat →
      readByte s'.mem (dataAddress s.i r) = readByte s.mem (dataAddress s.i r))
    (hx : (s'.reg x).toNat % 64 = (s.reg x).toNat % 64)
    (hy : (s'.reg y).toNat % 32 = (s.reg y).toNat % 32) :
    SpriteSets s' x y n px py ↔ SpriteSets s x y n px py := by
  unfold SpriteSets
  rw [hi, hx, hy]
  refine exists_congr fun r => exists_congr fun c => and_congr_right fun hr => ?_
  rw [hbytes r hr]

end

/-! ### The instructions -/

/-- Settles O43: the new framebuffer is the blank one, whatever the old one was. -/
theorem clearBlanksFrame : Obligations.ClearBlanksFrame := fun _ =>
  ⟨_, rfl, pixel_blankFrame, rfl, rfl, WritesOnly.keepsAllBut (by constructor <;> simp)⟩

/-- Settles O44: a draw is the blit, with the collision as the flag. -/
theorem drawTogglesSpritePixels : Obligations.DrawTogglesSpritePixels := by
  intro x y n s
  have hn : n = 0 ↔ n.toNat = 0 := BitVec.toNat_eq
  rw [Ne, hn]
  rcases execDrw_cases x y n s with ⟨hpos, hout, h⟩ | ⟨hfits, h⟩
  · exact ⟨fun hle => by omega, fun _ => ⟨_, h, raiseMemory_i_raises s⟩⟩
  · refine ⟨fun _ => ⟨_, h, fun _ _ => pixel_spriteBlit_of_spriteSets,
      fun _ _ => pixel_spriteBlit_of_not_spriteSets, fun hon => ?_, fun hoff => ?_, rfl, rfl,
      keepsRegsBut_of_v_eq_setReg rfl, WritesOnly.keepsAllBut (by constructor <;> simp)⟩,
      fun hlt => by omega⟩
    · simp [collision_spriteBlit_iff_spriteSets.mpr hon]
    · have hclear : (spriteBlit x y n s).collision = false :=
        Bool.eq_false_iff.mpr fun hcoll => by
          obtain ⟨px, py, hset, hon⟩ := collision_spriteBlit_iff_spriteSets.mp hcoll
          exact Bool.false_ne_true ((hoff px py hset).symm.trans hon)
      simp [hclear]

/-- Settles O45, from O44: both draws toggle the same pixels, so the second undoes the first; a pixel it
finds on among them is one that the first turned on. -/
theorem doubleDrawRestoresFrame : Obligations.DoubleDrawRestoresFrame := by
  intro x y n s hrange
  obtain ⟨t, ht, htog, hkeep, _⟩ := (drawTogglesSpritePixels x y n s).1 hrange
  refine ⟨t, ht, fun s' hfb hi hbytes hx hy => ?_⟩
  obtain ⟨t', ht', htog', hkeep', hon, hoff, _⟩ := (drawTogglesSpritePixels x y n s').1 (hi ▸ hrange)
  have hsame (px py) : SpriteSets s' x y n px py ↔ SpriteSets s x y n px py :=
    spriteSets_congr hi hbytes hx hy
  rw [hfb] at htog' hkeep' hon hoff
  simp only [hsame] at htog' hkeep' hon hoff
  refine ⟨t', ht', frame_eq_of_pixel_eq fun px py => ?_, fun hvf => ?_, ?_⟩
  · by_cases h : SpriteSets s x y n px py
    · rw [htog' px py h, htog px py h, Bool.not_not]
    · rw [hkeep' px py h, hkeep px py h]
  · by_contra hnone
    have hzero : t'.reg VF = 0x00 := hoff fun px py h =>
      Bool.eq_false_iff.mpr fun hlit => hnone ⟨px, py, by simpa [htog px py h] using hlit, hlit⟩
    exact absurd (hzero.symm.trans hvf) (by decide)
  · rintro ⟨px, py, hdark, hlit⟩
    refine hon ⟨px, py, ?_, hlit⟩
    by_contra h
    rw [hkeep px py h, hdark] at hlit
    cases hlit

end Sys2Proof.Machine
end

section
/-! PROOF. Faults (60_exceptions.md): which instruction raises what, the illegal word, the fault that
stands until Reset, and that no step stops the machine: O49, O53, O54, O4. -/

namespace Sys2Proof.Machine

/-! ### What an instruction raises by itself -/

/-- The fault of an access through `I`, as R231 lists it. -/
theorem raiseMemory_i_eq (s : State) :
    s.raiseMemory s.i.toNat = s.raise .memoryFault (firstOutside s.i) :=
  congrArg (s.raise .memoryFault) (firstOutside_eq s.i)

/-- A store of `k + 1` bytes through `I` raises when its last byte is outside memory, or leaves `FAULT`. -/
theorem storeAtIndex_raise_cases {bs : List Byte} {k : Nat} (s : State) (hlen : bs.length = k + 1) :
    (0xFFF < s.i.toNat + k ∧
      storeAtIndex bs s = .next (s.raise .memoryFault (firstOutside s.i))) ∨
    ∃ t, storeAtIndex bs s = .next t ∧ t.fault = s.fault := by
  rcases storeAtIndex_cases bs s with ⟨hout, h⟩ | ⟨_, h⟩
  · rw [outOfRange_eq_true] at hout
    exact .inl ⟨by omega, raiseMemory_i_eq s ▸ h⟩
  · exact .inr ⟨_, h, rfl⟩

/-- An instruction raises a fault that R231 lists for it, on the condition of its check, and changes
nothing else; or it leaves `FAULT` as it was. -/
theorem exec_raise_cases (i : Instr) (s : State) :
    (∃ f, MayRaise s i f ∧ exec i s = .next (s.raise f.code f.info)) ∨
    ∃ t, exec i s = .next t ∧ t.fault = s.fault := by
  cases i with
  | cls | jp | seImm | sneImm | seReg | ldImm | addImm | ldReg | orReg | andReg | xorReg | addReg
  | subReg | shr | subnReg | shl | sneReg | ldI | jpV0 | rnd | skp | sknp | ldVxDt | ldVxK | ldDtVx
  | ldStVx | addI | ldF => exact .inr ⟨_, rfl, rfl⟩
  | ret =>
    rcases execRet_cases s with ⟨hsp, h⟩ | ⟨_, h⟩
    · exact .inl ⟨_, .inl ⟨rfl, hsp, rfl⟩, h⟩
    · exact .inr ⟨_, h, rfl⟩
  | call nnn =>
    rcases execCall_cases nnn s with ⟨hsp, h⟩ | ⟨_, h⟩
    · exact .inl ⟨_, .inr (.inl ⟨⟨nnn, rfl⟩, hsp, rfl⟩), h⟩
    · exact .inr ⟨_, h, rfl⟩
  | ldB x =>
    exact (storeAtIndex_raise_cases s (length_bcdDigits (s.reg x))).imp_left fun ⟨hout, h⟩ =>
      ⟨_, .inr (.inr (.inl ⟨⟨x, rfl⟩, hout, rfl⟩)), h⟩
  | dumpRegs x =>
    exact (storeAtIndex_raise_cases s (length_dumpBytes s)).imp_left fun ⟨hout, h⟩ =>
      ⟨_, .inr (.inr (.inr (.inl ⟨⟨x, .inl rfl⟩, hout, rfl⟩))), h⟩
  | loadRegs x =>
    rcases execLoadRegs_cases x s with ⟨hout, h⟩ | ⟨_, _, _, h⟩
    · exact .inl ⟨_, .inr (.inr (.inr (.inl ⟨⟨x, .inr rfl⟩, by omega, rfl⟩))),
        raiseMemory_i_eq s ▸ h⟩
    · exact .inr ⟨_, h, rfl⟩
  | drw x y n =>
    rcases execDrw_cases x y n s with ⟨hpos, hout, h⟩ | ⟨_, h⟩
    · exact .inl ⟨_, .inr (.inr (.inr (.inr ⟨x, y, n, rfl, hpos, by omega, rfl⟩))),
        raiseMemory_i_eq s ▸ h⟩
    · exact .inr ⟨_, h, rfl⟩

/-- Settles O49: by `exec_raise_cases`, an instruction that leaves `FAULT` set has raised. -/
theorem faultsArePreciseAndListed : Obligations.FaultsArePreciseAndListed := by
  intro i s t f hs he hf
  rcases exec_raise_cases i s with ⟨g, hg, h⟩ | ⟨u, h, hu⟩ <;> cases h.symm.trans he
  · obtain rfl : g = f := Option.some.inj hf
    exact ⟨(raise_raises s g.code g.info).2, hg⟩
  · cases hf.symm.trans (hu.trans hs)

/-! ### A word that is no instruction -/

theorem startInstr_of_decodeError {s : State} {op bad : Word} (r : Option Byte)
    (hfetch : fetchWord s = some op) (hd : decode op = .decodeError bad) :
    startInstr r s = .done (s.raise .decodeError bad) := by
  simp [startInstr, hfetch, hd]

/-- A Cycle that nothing holds back raises DecodeError when its word is no instruction (R214). -/
theorem step_fetch_decodeError {s : State} {op bad : Word} (hc : NextIsCycle s) (hf : s.fault = none)
    (hw : s.wait = false) (hfetch : fetchWord s = some op) (hd : decode op = .decodeError bad) :
    step s = .next (s.dropEvent.raise .decodeError bad) := by
  obtain ⟨r, hs, _⟩ := startStep_ready hc hf hw
  exact step_done (hs.trans (startInstr_of_decodeError r (s := s.dropEvent) hfetch hd))

/-- Settles O4: a word that decodes to no instruction decodes to the error that names it. -/
theorem illegalWordRaisesDecodeError : Obligations.IllegalWordRaisesDecodeError := by
  rintro s op hpc rfl hillegal hc hf hw
  cases hd : decode (wordOfBytes (readByte s.mem s.pc.toNat) (readByte s.mem (s.pc.toNat + 1))) with
  | instr i => exact absurd hd (hillegal i)
  | decodeError bad =>
    refine ⟨_, step_fetch_decodeError hc hf hw (fetchWord_of_le hpc) hd, ?_⟩
    rw [decodeError_eq hd]
    exact raise_raises _ _ _

/-! ### Every step answers -/

/-- Settles O54: a step is over when it has started, or it executes an instruction, which answers. -/
theorem everyStepAnswersNext : Obligations.EveryStepAnswersNext := by
  intro s
  cases hs : startStep s with
  | done t => exact ⟨t, step_done hs⟩
  | run i u =>
    obtain ⟨t, ht, _⟩ := exec_writesOnly i u
    exact ⟨t, (step_run hs).trans ht⟩

/-! ### A fault stands until Reset -/

/-- A SetKey while the block does not wait writes the keys and the reply alone (R128, R129). -/
theorem setKey_of_not_waiting {s : State} (hw : s.wait = false) (index : Nat) (pressed : Bool) :
    ∃ keys reply, setKey index pressed s = { s with keys := keys, reply := reply } := by
  by_cases hlt : index < 16
  · rw [setKey_of_lt hlt]
    rcases setKeyInRange_cases ⟨index, hlt⟩ pressed s with ⟨hwait, _, _⟩ | ⟨_, h⟩
    · cases hw.symm.trans hwait
    · rw [h]
      exact ⟨_, _, rfl⟩
  · exact ⟨s.keys, .inputOutOfRange, setKey_of_ge (by omega) pressed s⟩

/-- A scheduled event other than Reset leaves a faulted block that does not wait with its fault; only a
Load writes memory (R216). -/
theorem step_halted_cons {s : State} {e : Event} {es : List Event} (hf : s.fault ≠ none)
    (hw : s.wait = false) (hi : s.inputs = e :: es) (he : e ≠ .reset) :
    ∃ t, step s = .next t ∧ t.inputs = es ∧
      KeepsAllBut [.dt, .st, .keys, .dirty, .mem, .inputs, .reply] s t ∧
      ((∀ bytes, e ≠ .load bytes) → t.mem = s.mem) := by
  suffices h : ∃ dt st keys dirty mem reply,
      step s = .next { s with dt := dt, st := st, keys := keys, dirty := dirty, mem := mem,
                              inputs := es, reply := reply } ∧
      ((∀ bytes, e ≠ .load bytes) → mem = s.mem) by
    obtain ⟨_, _, _, _, _, _, hs, hmem⟩ := h
    exact ⟨_, hs, rfl, WritesOnly.keepsAllBut (by constructor <;> simp), hmem⟩
  cases e with
  | cycle r =>
    have hidle : startCycle (some r) { s with inputs := es } = .done { s with inputs := es } :=
      startCycle_idle (.inl hf)
    exact ⟨_, _, _, _, _, _, step_done ((startStep_cycle_cons hi).trans hidle), fun _ => rfl⟩
  | tick => exact ⟨_, _, _, _, _, _, step_done (startStep_tick hi), fun _ => rfl⟩
  | setKey index pressed =>
    obtain ⟨keys, reply, h⟩ :=
      setKey_of_not_waiting (s := { s with inputs := es }) hw index pressed
    exact ⟨_, _, keys, _, _, reply, step_done ((startStep_setKey hi).trans (congrArg _ h)),
      fun _ => rfl⟩
  | load bytes =>
    rcases load_cases bytes { s with inputs := es } with ⟨_, h⟩ | ⟨_, h⟩ <;>
      exact ⟨_, _, _, _, _, _, step_done ((startStep_load hi).trans (congrArg _ h)),
        fun hno => absurd rfl (hno bytes)⟩
  | snapshot => exact ⟨_, _, _, _, _, _, step_done (startStep_snapshot hi), fun _ => rfl⟩
  | ackFrame => exact ⟨_, _, _, _, _, _, step_done (startStep_ackFrame hi), fun _ => rfl⟩
  | reset => exact absurd rfl he

/-- Settles O53, by induction on the number of events: `step_halted_cons` for one of the schedule; an
unscheduled Cycle does nothing (R123). -/
theorem faultStandsUntilReset : Obligations.FaultStandsUntilReset := by
  intro n
  induction n with
  | zero => exact fun s _ _ _ => ⟨s, rfl, KeepsAllBut.refl _ s, fun _ => rfl⟩
  | succ n ih =>
    intro s hf hw hr
    cases hi : s.inputs with
    | nil =>
      have hs : step s = .next s :=
        step_done ((startStep_nil hi).trans (startCycle_idle (.inl hf)))
      obtain ⟨t, ht, hkeep, hmem⟩ := ih s hf hw (by simp [hi])
      exact ⟨t, (run_succ hs n).trans ht, hkeep, fun _ => hmem (by simp [hi])⟩
    | cons e es =>
      rw [hi, List.take_succ_cons, List.forall_mem_cons] at hr
      obtain ⟨he, hes⟩ := hr
      obtain ⟨u, hu, rfl, hkeep, hmem⟩ := step_halted_cons hf hw hi he
      have hfault : u.fault = s.fault := hkeep .fault (by decide)
      have hwait : u.wait = s.wait := hkeep .wait (by decide)
      obtain ⟨t, ht, hkeep', hmem'⟩ := ih u (hfault ▸ hf) (hwait.trans hw) hes
      refine ⟨t, (run_succ hu n).trans ht, hkeep.trans hkeep', fun hload => ?_⟩
      obtain ⟨hnoload, hnoloads⟩ := List.forall_mem_cons.mp (List.take_succ_cons ▸ hload)
      exact (hmem' hnoloads).trans (hmem hnoload)

end Sys2Proof.Machine
end

section
/-! PROOF. Reset, and two of the three ways a run stands still (70_reset_and_hazards.md): O11, and of
R246 (a) O55 and (c) O57. -/

namespace Sys2Proof.Machine

/-! ### Reset -/

/-- Settles O11: a Reset takes from the old state only the schedule and the count of draws. -/
theorem resetEventGivesResetState : Obligations.ResetEventGivesResetState := fun _ _ hi =>
  ⟨_, step_done (startStep_reset hi), rfl,
    WritesOnly.keepsAllBut (by constructor <;> simp [resetEvent])⟩

/-! ### A jump to itself -/

/-- A Cycle that the schedule does not name executes in the state as it is, when no byte is at hand. -/
theorem atExecute_of_nil {s : State} (hi : s.inputs = []) (hr : s.rnd = none) : s.atExecute = s := by
  cases s
  simp_all [State.atExecute]

/-- Such a Cycle executes the jump to `PC`, which moves nothing. -/
theorem step_spinning {s : State} (hs : s.Spinning) (hi : s.inputs = []) (hr : s.rnd = none) :
    step s = .next s := by
  obtain ⟨hf, hw, nnn, hpc, hfetch⟩ := hs
  calc step s
    _ = exec (.jp nnn) s.atExecute :=
        step_fetch_instr (.inl hi) hf hw hfetch (decode_encode (.jp nnn))
    _ = .next (s.jumpTo (addressOf nnn)) := by rw [atExecute_of_nil hi hr]; rfl
    _ = .next s := by rw [hpc, jumpTo_pc_self]

/-- A fixed point of the step is one of every run. -/
theorem run_of_step_eq_self {s : State} (h : step s = .next s) (n : Nat) :
    Sys2Proof.core.run n s = .next s := by
  induction n with
  | zero => rfl
  | succ n ih => exact (run_succ h n).trans ih

/-- Settles O55: a spinning state is a fixed point of the step. -/
theorem jumpToSelfSpins : Obligations.JumpToSelfSpins := fun n _ hs hi hr =>
  run_of_step_eq_self (step_spinning hs hi hr) n

/-! ### A wait with no press to come -/

/-- The events that end a wait are Reset and the press of a key in range (R129, R230). -/
theorem Event.keepsWait_iff {e : Event} :
    e.keepsWait = true ↔ e ≠ .reset ∧ ∀ k, k < 16 → e ≠ .setKey k true := by
  cases e with
  | setKey index pressed =>
    cases pressed with
    | false => simp [Event.keepsWait]
    | true =>
      have hne : 16 ≤ index ↔ ∀ k, k < 16 → index ≠ k :=
        ⟨fun hge k hk => by omega, fun h => Nat.le_of_not_lt fun hlt => h index hlt rfl⟩
      simpa [Event.keepsWait] using hne
  | cycle | tick | load | snapshot | ackFrame | reset => simp [Event.keepsWait]

/-- A block with no press and no Reset to come is one that waits with a schedule that keeps the wait. -/
theorem blocked_and_no_reset_iff {s : State} :
    (s.Blocked ∧ Event.reset ∉ s.inputs) ↔
      s.wait = true ∧ ∀ e ∈ s.inputs, e.keepsWait = true := by
  simp only [State.Blocked, Event.keepsWait_iff]
  constructor
  · rintro ⟨⟨hw, hpress⟩, hreset⟩
    exact ⟨hw, fun e he => ⟨fun h => hreset (h ▸ he), fun k hk h => hpress k hk (h ▸ he)⟩⟩
  · rintro ⟨hw, hkeeps⟩
    exact ⟨⟨hw, fun k hk hmem => (hkeeps _ hmem).2 k hk rfl⟩, fun hmem => (hkeeps _ hmem).1 rfl⟩

/-- One event leaves such a block as it was, with the rest of the schedule to come. -/
theorem step_blocked {s : State} (hb : s.Blocked) (hr : Event.reset ∉ s.inputs) :
    ∃ t, step s = .next t ∧ t.Blocked ∧ Event.reset ∉ t.inputs ∧ t.pc = s.pc ∧ t.v = s.v := by
  obtain ⟨hw, hkeeps⟩ := blocked_and_no_reset_iff.mp ⟨hb, hr⟩
  obtain ⟨t, ht, hti, htw, _, hpc, hv⟩ :=
    step_waiting hw fun e he => hkeeps e (List.mem_of_mem_head? he)
  have hrest : ∀ e ∈ t.inputs, e.keepsWait = true := fun e he =>
    hkeeps e (List.mem_of_mem_tail (hti ▸ he))
  obtain ⟨hb', hr'⟩ := blocked_and_no_reset_iff.mpr ⟨htw, hrest⟩
  exact ⟨t, ht, hb', hr', hpc, hv⟩

/-- Settles O57, by induction on the number of events: each is a `step_blocked`. -/
theorem waitWithoutPressHangs : Obligations.WaitWithoutPressHangs := by
  intro n
  induction n with
  | zero => exact fun s hb _ => ⟨s, rfl, hb, rfl, rfl⟩
  | succ n ih =>
    intro s hb hr
    obtain ⟨u, hu, hub, hur, hupc, huv⟩ := step_blocked hb hr
    obtain ⟨t, ht, htb, htpc, htv⟩ := ih u hub hur
    exact ⟨t, (run_succ hu n).trans ht, htb, htpc.trans hupc, htv.trans huv⟩

end Sys2Proof.Machine
end
